-- ==== Sys2Proof/Word.lean ====
section
/-! DEFINITION. The word types of the machine: sizes of `00_scope.md` R6 and R4 (`XLEN` = 32). -/

namespace Sys2Proof

/-- A 32-bit word: general registers, `hi`, `lo`, `pc`, addresses, instruction words (R4, R6, R20). -/
abbrev Word := BitVec 32

/-- A halfword, 16 bits (R6); also the immediate field `imm` (R101). -/
abbrev Half := BitVec 16

/-- A byte, 8 bits, the unit of memory (R6, R60). -/
abbrev Byte := BitVec 8

/-- The number of a general register, the 5-bit field of R101. -/
abbrev Reg := BitVec 5

end Sys2Proof
end

