-- ==== Sys2Proof/Config.lean ====
section
/-! DEFINITION. The parameters of `00_scope.md` R4, the free values, and the values the model names where
the spec leaves one open. Each is logged in notes/assumptions/. -/

namespace Sys2Proof

/-- `ENDIAN` (R4, R62): byte order of data and of instruction fetch. OPEN in the spec, default little (log 2). -/
inductive Endian where
  | little
  | big
  deriving DecidableEq, Repr

/-- `DIV_SIGNED` (R4, R146, U1): what `div` leaves when an operand is negative. The spec's choice is
`truncate`; `draw` is the alternative U1 names, any value (log 5). -/
inductive DivSigned where
  | truncate
  | draw
  deriving DecidableEq, Repr

/-- A range of byte addresses, both ends included. -/
structure AddrRange where
  first : Nat
  last : Nat
  deriving DecidableEq, Repr

/-- The open parameters of R4, fixed for a run. `MEM_BACKED` is held as the ranges that are NOT backed
(log 3), `EXT_IRQ` as the samples of the first steps, constantly zero after them (log 4). -/
structure Params where
  endian : Endian
  unbacked : List AddrRange
  extIrq : List (BitVec 6)
  divSigned : DivSigned
  deriving DecidableEq, Repr

/-- The spec's default for every open parameter (R4). -/
def Params.default : Params where
  endian := .little
  unbacked := []
  extIrq := []
  divSigned := .truncate

namespace Config

/-- `RESET_PC` (R4, R420): OPEN in the spec, whose default this is (log 12). -/
def resetPc : Word := 0x00400000#32

/-- What a byte of memory that nothing has listed reads as. DESIGN CHOICE, unsafe (log 9): R420 leaves the
launch memory to the environment. -/
def unlistedByte : Byte := 0x00#8

/-- The value a register holds at reset where R39 says "unspecified". DESIGN CHOICE, unsafe (logs 10, 11). -/
def unspecifiedReset : Word := 0x00000000#32

/-- The free words: what R13 calls a draw. No body, so nothing can be proved of a value (logs 6, 8). -/
opaque freeWord : Nat → Word

end Config

end Sys2Proof
end

