-- ==== Sys2Proof/Machine/Bits.lean ====
section
/-! DEFINITION. Bit-field, extension and byte-order helpers: `00_scope.md` R5, R7, `20_memory.md` R62,
`30_encoding.md` R101. -/

namespace Sys2Proof

/-! ### Fields of an instruction word (R101) -/

/-- `op`, bits 31:26. -/
def opField (w : Word) : BitVec 6 := w.extractLsb' 26 6

/-- `rs`, bits 25:21. -/
def rsField (w : Word) : BitVec 5 := w.extractLsb' 21 5

/-- `rt`, bits 20:16. -/
def rtField (w : Word) : BitVec 5 := w.extractLsb' 16 5

/-- `rd`, bits 15:11. -/
def rdField (w : Word) : BitVec 5 := w.extractLsb' 11 5

/-- `shamt`, bits 10:6. -/
def shamtField (w : Word) : BitVec 5 := w.extractLsb' 6 5

/-- `funct`, bits 5:0. -/
def functField (w : Word) : BitVec 6 := w.extractLsb' 0 6

/-- `imm`, bits 15:0. -/
def immField (w : Word) : Half := w.extractLsb' 0 16

/-- `target`, bits 25:0. -/
def targetField (w : Word) : BitVec 26 := w.extractLsb' 0 26

/-- `code`, bits 25:6. -/
def codeField (w : Word) : BitVec 20 := w.extractLsb' 6 20

/-! ### Extensions (R7) -/

/-- `sext_32` of a 16-bit value. -/
def sextHalf (v : Half) : Word := v.signExtend 32

/-- `zext_32` of a 16-bit value. -/
def zextHalf (v : Half) : Word := v.setWidth 32

/-- `sext_32` of a byte. -/
def sextByte (v : Byte) : Word := v.signExtend 32

/-- `zext_32` of a byte. -/
def zextByte (v : Byte) : Word := v.setWidth 32

/-- The 32-bit value 1 or 0 a comparison writes (`44_comparison.md`). -/
def boolWord (b : Bool) : Word := if b then 1#32 else 0#32

/-! ### Byte order (R62) -/

/-- The halfword of the bytes at `a`, `a+1`. -/
def joinHalf (e : Endian) (b0 b1 : Byte) : Half :=
  match e with
  | .little => b1 ++ b0
  | .big => b0 ++ b1

/-- The word of the bytes at `a`, `a+1`, `a+2`, `a+3`. -/
def joinWord (e : Endian) (b0 b1 b2 b3 : Byte) : Word :=
  match e with
  | .little => b3 ++ b2 ++ b1 ++ b0
  | .big => b0 ++ b1 ++ b2 ++ b3

/-- The byte of the low halfword of `v` that goes to address `a + i`, `i` = 0 or 1. -/
def halfByte (e : Endian) (v : Word) (i : Nat) : Byte :=
  match e with
  | .little => v.extractLsb' (8 * i) 8
  | .big => v.extractLsb' (8 * (1 - i)) 8

/-- The byte of `v` that goes to address `a + i`, `i` = 0 to 3. -/
def wordByte (e : Endian) (v : Word) (i : Nat) : Byte :=
  match e with
  | .little => v.extractLsb' (8 * i) 8
  | .big => v.extractLsb' (8 * (3 - i)) 8

end Sys2Proof
end

