-- ==== Sys2Proof/Syntax.lean ====
section
/-! DEFINITION. The instructions: one constructor for each of the 60 rows of spec/opcode_table.json
(`00_scope.md` R2), with the operands the row's fields give it. Operand order in a constructor is the
written order of `30_encoding.md` R122 (destination first); loads and stores carry `rt rs imm` for
`rt, offset(rs)`. -/

namespace Sys2Proof

/-- The coprocessor-0 register an `mfc0` or `mtc0` names (`10_state.md` R30). `other n` stands for a number
that names no state (R37); an `other` with one of the four defined numbers is ill-formed. -/
inductive Cp0Reg where
  | badVAddr
  | status
  | cause
  | epc
  | other (n : BitVec 5)
  deriving DecidableEq, Repr

/-- The machine instructions (R2, R120). -/
inductive Instr where
  -- shifts
  | sll (rd rt : Reg) (shamt : BitVec 5)
  | srl (rd rt : Reg) (shamt : BitVec 5)
  | sra (rd rt : Reg) (shamt : BitVec 5)
  | sllv (rd rt rs : Reg)
  | srlv (rd rt rs : Reg)
  | srav (rd rt rs : Reg)
  -- register jumps, system call
  | jr (rs : Reg)
  | jalr (rd rs : Reg)
  | syscall (code : BitVec 20)
  -- hi and lo
  | mfhi (rd : Reg)
  | mthi (rs : Reg)
  | mflo (rd : Reg)
  | mtlo (rs : Reg)
  | mult (rs rt : Reg)
  | multu (rs rt : Reg)
  | div (rs rt : Reg)
  | divu (rs rt : Reg)
  -- three-register arithmetic, logic and comparison
  | add (rd rs rt : Reg)
  | addu (rd rs rt : Reg)
  | sub (rd rs rt : Reg)
  | subu (rd rs rt : Reg)
  | and (rd rs rt : Reg)
  | or (rd rs rt : Reg)
  | xor (rd rs rt : Reg)
  | nor (rd rs rt : Reg)
  | slt (rd rs rt : Reg)
  | sltu (rd rs rt : Reg)
  -- branches and jumps
  | bltz (rs : Reg) (imm : Half)
  | bgez (rs : Reg) (imm : Half)
  | bltzal (rs : Reg) (imm : Half)
  | bgezal (rs : Reg) (imm : Half)
  | j (target : BitVec 26)
  | jal (target : BitVec 26)
  | beq (rs rt : Reg) (imm : Half)
  | bne (rs rt : Reg) (imm : Half)
  | blez (rs : Reg) (imm : Half)
  | bgtz (rs : Reg) (imm : Half)
  -- immediates
  | addi (rt rs : Reg) (imm : Half)
  | addiu (rt rs : Reg) (imm : Half)
  | slti (rt rs : Reg) (imm : Half)
  | sltiu (rt rs : Reg) (imm : Half)
  | andi (rt rs : Reg) (imm : Half)
  | ori (rt rs : Reg) (imm : Half)
  | xori (rt rs : Reg) (imm : Half)
  | lui (rt : Reg) (imm : Half)
  -- coprocessor 0
  | mfc0 (rt : Reg) (cs : Cp0Reg)
  | mtc0 (rt : Reg) (cd : Cp0Reg)
  | rfe
  -- loads
  | lb (rt rs : Reg) (imm : Half)
  | lh (rt rs : Reg) (imm : Half)
  | lwl (rt rs : Reg) (imm : Half)
  | lw (rt rs : Reg) (imm : Half)
  | lbu (rt rs : Reg) (imm : Half)
  | lhu (rt rs : Reg) (imm : Half)
  | lwr (rt rs : Reg) (imm : Half)
  -- stores
  | sb (rt rs : Reg) (imm : Half)
  | sh (rt rs : Reg) (imm : Half)
  | swl (rt rs : Reg) (imm : Half)
  | sw (rt rs : Reg) (imm : Half)
  | swr (rt rs : Reg) (imm : Half)
  deriving DecidableEq, Repr

/-- The instruction's name in spec/opcode_table.json (R120). -/
def Instr.mnemonic : Instr → String
  | .sll .. => "sll"
  | .srl .. => "srl"
  | .sra .. => "sra"
  | .sllv .. => "sllv"
  | .srlv .. => "srlv"
  | .srav .. => "srav"
  | .jr .. => "jr"
  | .jalr .. => "jalr"
  | .syscall .. => "syscall"
  | .mfhi .. => "mfhi"
  | .mthi .. => "mthi"
  | .mflo .. => "mflo"
  | .mtlo .. => "mtlo"
  | .mult .. => "mult"
  | .multu .. => "multu"
  | .div .. => "div"
  | .divu .. => "divu"
  | .add .. => "add"
  | .addu .. => "addu"
  | .sub .. => "sub"
  | .subu .. => "subu"
  | .and .. => "and"
  | .or .. => "or"
  | .xor .. => "xor"
  | .nor .. => "nor"
  | .slt .. => "slt"
  | .sltu .. => "sltu"
  | .bltz .. => "bltz"
  | .bgez .. => "bgez"
  | .bltzal .. => "bltzal"
  | .bgezal .. => "bgezal"
  | .j .. => "j"
  | .jal .. => "jal"
  | .beq .. => "beq"
  | .bne .. => "bne"
  | .blez .. => "blez"
  | .bgtz .. => "bgtz"
  | .addi .. => "addi"
  | .addiu .. => "addiu"
  | .slti .. => "slti"
  | .sltiu .. => "sltiu"
  | .andi .. => "andi"
  | .ori .. => "ori"
  | .xori .. => "xori"
  | .lui .. => "lui"
  | .mfc0 .. => "mfc0"
  | .mtc0 .. => "mtc0"
  | .rfe => "rfe"
  | .lb .. => "lb"
  | .lh .. => "lh"
  | .lwl .. => "lwl"
  | .lw .. => "lw"
  | .lbu .. => "lbu"
  | .lhu .. => "lhu"
  | .lwr .. => "lwr"
  | .sb .. => "sb"
  | .sh .. => "sh"
  | .swl .. => "swl"
  | .sw .. => "sw"
  | .swr .. => "swr"

/-- The numbers of the registers the spec names by role: `$zero`, `$at`, `$ra` (`10_state.md` R22). -/
def Reg.zero : Reg := 0#5

/-- `$at`, the assembler temporary (`30_encoding.md` R127). -/
def Reg.at : Reg := 1#5

/-- `$ra`, the register `jal`, `bgezal` and `bltzal` write (`45_branch_jump.md` R259). -/
def Reg.ra : Reg := 31#5

/-- The conventional names of R22, in register order. Software convention only. -/
def Reg.names : List String :=
  ["$zero", "$at", "$v0", "$v1", "$a0", "$a1", "$a2", "$a3"]
  ++ ["$t0", "$t1", "$t2", "$t3", "$t4", "$t5", "$t6", "$t7"]
  ++ ["$s0", "$s1", "$s2", "$s3", "$s4", "$s5", "$s6", "$s7"]
  ++ ["$t8", "$t9", "$k0", "$k1", "$gp", "$sp", "$fp", "$ra"]

end Sys2Proof
end

