-- ==== Sys2Proof/WellFormed.lean ====
section
/-! DEFINITION. Which terms of `Instr` stand for an instruction word. Every field has its exact width as a
type, so one check is left: a coprocessor-0 operand that names a defined register is written by that
register's own constructor (`10_state.md` R30, R37). -/

namespace Sys2Proof

/-- `other n` is for the numbers R37 calls undefined: not 8, 12, 13, 14. -/
def Cp0Reg.wellFormed : Cp0Reg → Bool
  | .other n => n != 8#5 && n != 12#5 && n != 13#5 && n != 14#5
  | _ => true

/-- The instruction's coprocessor-0 operand, where it has one. -/
def Instr.cp0Operand : Instr → Option Cp0Reg
  | .mfc0 _ c => some c
  | .mtc0 _ c => some c
  | _ => none

/-- The check of a whole instruction. -/
def Instr.wellFormed (i : Instr) : Bool :=
  match i.cp0Operand with
  | some c => c.wellFormed
  | none => true

end Sys2Proof
end

