-- ==== Sys2Proof/Decode.lean ====
section
/-! DEFINITION. `Decode(w)` of `30_encoding.md` R116 with the strict reading of R115, the opcode maps of R111
to R114, the encoder of R102 to R105 and R120, and the opcode table itself as data. -/

namespace Sys2Proof

/-- Why a word is a reserved instruction (R118). Each one raises `RI`. -/
inductive Reserved where
  /-- `op` has no line in R111. -/
  | primaryOpcode
  /-- `op` = 0 and `funct` has no line in R112. -/
  | specialFunct
  /-- `op` = 1 and `rt` has no line in R113. -/
  | regimmSelector
  /-- `op` = 0x10 and no line of R114 holds. -/
  | cop0Form
  /-- A field the instruction does not use is not zero (R115). -/
  | unusedFieldNotZero
  deriving DecidableEq, Repr

/-- The coprocessor-0 register of a number (R30, R37). -/
def cp0RegOf (n : BitVec 5) : Cp0Reg :=
  if n = 8#5 then .badVAddr
  else if n = 12#5 then .status
  else if n = 13#5 then .cause
  else if n = 14#5 then .epc
  else .other n

/-- The number of a coprocessor-0 register (R30). -/
def cp0Number : Cp0Reg → BitVec 5
  | .badVAddr => 8#5
  | .status => 12#5
  | .cause => 13#5
  | .epc => 14#5
  | .other n => n

/-- The strict check of R115: the unused fields are zero, or the word is reserved. -/
def strict (unusedAreZero : Bool) (i : Instr) : Except Reserved Instr :=
  if unusedAreZero then .ok i else .error .unusedFieldNotZero

/-- SPECIAL, `op` = 000000, by `funct` (R112). -/
def decodeSpecial (w : Word) : Except Reserved Instr :=
  let rs := rsField w
  let rt := rtField w
  let rd := rdField w
  let sh := shamtField w
  match functField w with
  | 0x00#6 => strict (rs == 0#5) (.sll rd rt sh)
  | 0x02#6 => strict (rs == 0#5) (.srl rd rt sh)
  | 0x03#6 => strict (rs == 0#5) (.sra rd rt sh)
  | 0x04#6 => strict (sh == 0#5) (.sllv rd rt rs)
  | 0x06#6 => strict (sh == 0#5) (.srlv rd rt rs)
  | 0x07#6 => strict (sh == 0#5) (.srav rd rt rs)
  | 0x08#6 => strict (rt == 0#5 && rd == 0#5 && sh == 0#5) (.jr rs)
  | 0x09#6 => strict (rt == 0#5 && sh == 0#5) (.jalr rd rs)
  | 0x0C#6 => .ok (.syscall (codeField w))
  | 0x10#6 => strict (rs == 0#5 && rt == 0#5 && sh == 0#5) (.mfhi rd)
  | 0x11#6 => strict (rt == 0#5 && rd == 0#5 && sh == 0#5) (.mthi rs)
  | 0x12#6 => strict (rs == 0#5 && rt == 0#5 && sh == 0#5) (.mflo rd)
  | 0x13#6 => strict (rt == 0#5 && rd == 0#5 && sh == 0#5) (.mtlo rs)
  | 0x18#6 => strict (rd == 0#5 && sh == 0#5) (.mult rs rt)
  | 0x19#6 => strict (rd == 0#5 && sh == 0#5) (.multu rs rt)
  | 0x1A#6 => strict (rd == 0#5 && sh == 0#5) (.div rs rt)
  | 0x1B#6 => strict (rd == 0#5 && sh == 0#5) (.divu rs rt)
  | 0x20#6 => strict (sh == 0#5) (.add rd rs rt)
  | 0x21#6 => strict (sh == 0#5) (.addu rd rs rt)
  | 0x22#6 => strict (sh == 0#5) (.sub rd rs rt)
  | 0x23#6 => strict (sh == 0#5) (.subu rd rs rt)
  | 0x24#6 => strict (sh == 0#5) (.and rd rs rt)
  | 0x25#6 => strict (sh == 0#5) (.or rd rs rt)
  | 0x26#6 => strict (sh == 0#5) (.xor rd rs rt)
  | 0x27#6 => strict (sh == 0#5) (.nor rd rs rt)
  | 0x2A#6 => strict (sh == 0#5) (.slt rd rs rt)
  | 0x2B#6 => strict (sh == 0#5) (.sltu rd rs rt)
  | _ => .error .specialFunct

/-- REGIMM, `op` = 000001, by `rt` (R113). -/
def decodeRegimm (w : Word) : Except Reserved Instr :=
  match rtField w with
  | 0x00#5 => .ok (.bltz (rsField w) (immField w))
  | 0x01#5 => .ok (.bgez (rsField w) (immField w))
  | 0x10#5 => .ok (.bltzal (rsField w) (immField w))
  | 0x11#5 => .ok (.bgezal (rsField w) (immField w))
  | _ => .error .regimmSelector

/-- COP0, `op` = 010000 (R114, R105). -/
def decodeCop0 (w : Word) : Except Reserved Instr :=
  match rsField w with
  | 0x00#5 =>
    strict (shamtField w == 0#5 && functField w == 0#6) (.mfc0 (rtField w) (cp0RegOf (rdField w)))
  | 0x04#5 =>
    strict (shamtField w == 0#5 && functField w == 0#6) (.mtc0 (rtField w) (cp0RegOf (rdField w)))
  | 0x10#5 => if w = 0x42000010#32 then .ok .rfe else .error .cop0Form
  | _ => .error .cop0Form

/-- `Decode(w)` (R116): the primary opcode map of R111. Total; every rejected word has a name. -/
def decode (w : Word) : Except Reserved Instr :=
  let rs := rsField w
  let rt := rtField w
  let imm := immField w
  match opField w with
  | 0x00#6 => decodeSpecial w
  | 0x01#6 => decodeRegimm w
  | 0x02#6 => .ok (.j (targetField w))
  | 0x03#6 => .ok (.jal (targetField w))
  | 0x04#6 => .ok (.beq rs rt imm)
  | 0x05#6 => .ok (.bne rs rt imm)
  | 0x06#6 => strict (rt == 0#5) (.blez rs imm)
  | 0x07#6 => strict (rt == 0#5) (.bgtz rs imm)
  | 0x08#6 => .ok (.addi rt rs imm)
  | 0x09#6 => .ok (.addiu rt rs imm)
  | 0x0A#6 => .ok (.slti rt rs imm)
  | 0x0B#6 => .ok (.sltiu rt rs imm)
  | 0x0C#6 => .ok (.andi rt rs imm)
  | 0x0D#6 => .ok (.ori rt rs imm)
  | 0x0E#6 => .ok (.xori rt rs imm)
  | 0x0F#6 => strict (rs == 0#5) (.lui rt imm)
  | 0x10#6 => decodeCop0 w
  | 0x20#6 => .ok (.lb rt rs imm)
  | 0x21#6 => .ok (.lh rt rs imm)
  | 0x22#6 => .ok (.lwl rt rs imm)
  | 0x23#6 => .ok (.lw rt rs imm)
  | 0x24#6 => .ok (.lbu rt rs imm)
  | 0x25#6 => .ok (.lhu rt rs imm)
  | 0x26#6 => .ok (.lwr rt rs imm)
  | 0x28#6 => .ok (.sb rt rs imm)
  | 0x29#6 => .ok (.sh rt rs imm)
  | 0x2A#6 => .ok (.swl rt rs imm)
  | 0x2B#6 => .ok (.sw rt rs imm)
  | 0x2E#6 => .ok (.swr rt rs imm)
  | _ => .error .primaryOpcode

/-- The instruction read from four bytes, lowest address first (R100, R63); a list of any other length is no
instruction. -/
def decodeBytes (e : Endian) : List Byte → Option Instr
  | [b0, b1, b2, b3] => (decode (joinWord e b0 b1 b2 b3)).toOption
  | _ => none

/-- The four bytes of a word as they lie in memory, lowest address first (R62). -/
def bytesOfWord (e : Endian) (w : Word) : List Byte :=
  [wordByte e w 0, wordByte e w 1, wordByte e w 2, wordByte e w 3]

/-- The instruction word of `nbits` bits with value `w`; bits above `nbits` are zero. -/
def tableWord (nbits w : Nat) : Word := BitVec.ofNat 32 (w % 2 ^ nbits)

/-- What the decoder reads from an opcode-table row's word, laid out in the default byte order. -/
def decodeTableWord (nbits w : Nat) : Option Instr :=
  decodeBytes Params.default.endian (bytesOfWord Params.default.endian (tableWord nbits w))

/-! ### The encoder -/

/-- R format (R102). -/
def encodeR (rs rt rd shamt : BitVec 5) (funct : BitVec 6) : Word :=
  0x00#6 ++ rs ++ rt ++ rd ++ shamt ++ funct

/-- I format (R103). -/
def encodeI (op : BitVec 6) (rs rt : BitVec 5) (imm : Half) : Word :=
  op ++ rs ++ rt ++ imm

/-- J format (R104). -/
def encodeJ (op : BitVec 6) (target : BitVec 26) : Word :=
  op ++ target

/-- `mfc0` and `mtc0` (R105). -/
def encodeCop0 (sel rt rd : BitVec 5) : Word :=
  0x10#6 ++ sel ++ rt ++ rd ++ 0x000#11

/-- The word of an instruction (R120, R122). -/
def encode : Instr → Word
  | .sll rd rt sh => encodeR 0#5 rt rd sh 0x00#6
  | .srl rd rt sh => encodeR 0#5 rt rd sh 0x02#6
  | .sra rd rt sh => encodeR 0#5 rt rd sh 0x03#6
  | .sllv rd rt rs => encodeR rs rt rd 0#5 0x04#6
  | .srlv rd rt rs => encodeR rs rt rd 0#5 0x06#6
  | .srav rd rt rs => encodeR rs rt rd 0#5 0x07#6
  | .jr rs => encodeR rs 0#5 0#5 0#5 0x08#6
  | .jalr rd rs => encodeR rs 0#5 rd 0#5 0x09#6
  | .syscall code => 0x00#6 ++ code ++ 0x0C#6
  | .mfhi rd => encodeR 0#5 0#5 rd 0#5 0x10#6
  | .mthi rs => encodeR rs 0#5 0#5 0#5 0x11#6
  | .mflo rd => encodeR 0#5 0#5 rd 0#5 0x12#6
  | .mtlo rs => encodeR rs 0#5 0#5 0#5 0x13#6
  | .mult rs rt => encodeR rs rt 0#5 0#5 0x18#6
  | .multu rs rt => encodeR rs rt 0#5 0#5 0x19#6
  | .div rs rt => encodeR rs rt 0#5 0#5 0x1A#6
  | .divu rs rt => encodeR rs rt 0#5 0#5 0x1B#6
  | .add rd rs rt => encodeR rs rt rd 0#5 0x20#6
  | .addu rd rs rt => encodeR rs rt rd 0#5 0x21#6
  | .sub rd rs rt => encodeR rs rt rd 0#5 0x22#6
  | .subu rd rs rt => encodeR rs rt rd 0#5 0x23#6
  | .and rd rs rt => encodeR rs rt rd 0#5 0x24#6
  | .or rd rs rt => encodeR rs rt rd 0#5 0x25#6
  | .xor rd rs rt => encodeR rs rt rd 0#5 0x26#6
  | .nor rd rs rt => encodeR rs rt rd 0#5 0x27#6
  | .slt rd rs rt => encodeR rs rt rd 0#5 0x2A#6
  | .sltu rd rs rt => encodeR rs rt rd 0#5 0x2B#6
  | .bltz rs imm => encodeI 0x01#6 rs 0x00#5 imm
  | .bgez rs imm => encodeI 0x01#6 rs 0x01#5 imm
  | .bltzal rs imm => encodeI 0x01#6 rs 0x10#5 imm
  | .bgezal rs imm => encodeI 0x01#6 rs 0x11#5 imm
  | .j target => encodeJ 0x02#6 target
  | .jal target => encodeJ 0x03#6 target
  | .beq rs rt imm => encodeI 0x04#6 rs rt imm
  | .bne rs rt imm => encodeI 0x05#6 rs rt imm
  | .blez rs imm => encodeI 0x06#6 rs 0#5 imm
  | .bgtz rs imm => encodeI 0x07#6 rs 0#5 imm
  | .addi rt rs imm => encodeI 0x08#6 rs rt imm
  | .addiu rt rs imm => encodeI 0x09#6 rs rt imm
  | .slti rt rs imm => encodeI 0x0A#6 rs rt imm
  | .sltiu rt rs imm => encodeI 0x0B#6 rs rt imm
  | .andi rt rs imm => encodeI 0x0C#6 rs rt imm
  | .ori rt rs imm => encodeI 0x0D#6 rs rt imm
  | .xori rt rs imm => encodeI 0x0E#6 rs rt imm
  | .lui rt imm => encodeI 0x0F#6 0#5 rt imm
  | .mfc0 rt c => encodeCop0 0x00#5 rt (cp0Number c)
  | .mtc0 rt c => encodeCop0 0x04#5 rt (cp0Number c)
  | .rfe => 0x42000010#32
  | .lb rt rs imm => encodeI 0x20#6 rs rt imm
  | .lh rt rs imm => encodeI 0x21#6 rs rt imm
  | .lwl rt rs imm => encodeI 0x22#6 rs rt imm
  | .lw rt rs imm => encodeI 0x23#6 rs rt imm
  | .lbu rt rs imm => encodeI 0x24#6 rs rt imm
  | .lhu rt rs imm => encodeI 0x25#6 rs rt imm
  | .lwr rt rs imm => encodeI 0x26#6 rs rt imm
  | .sb rt rs imm => encodeI 0x28#6 rs rt imm
  | .sh rt rs imm => encodeI 0x29#6 rs rt imm
  | .swl rt rs imm => encodeI 0x2A#6 rs rt imm
  | .sw rt rs imm => encodeI 0x2B#6 rs rt imm
  | .swr rt rs imm => encodeI 0x2E#6 rs rt imm

/-! ### The table of R120 as data -/

/-- One row of the table: the word is this instruction iff `w &&& mask = value` (R115). -/
structure OpcodeRow where
  mnemonic : String
  mask : Word
  value : Word
  deriving DecidableEq, Repr

/-- The rows with `op` = 000000. -/
def specialRows : List OpcodeRow :=
  [⟨"sll", 0xFFE0003F, 0x00000000⟩, ⟨"srl", 0xFFE0003F, 0x00000002⟩,
   ⟨"sra", 0xFFE0003F, 0x00000003⟩, ⟨"sllv", 0xFC0007FF, 0x00000004⟩,
   ⟨"srlv", 0xFC0007FF, 0x00000006⟩, ⟨"srav", 0xFC0007FF, 0x00000007⟩,
   ⟨"jr", 0xFC1FFFFF, 0x00000008⟩, ⟨"jalr", 0xFC1F07FF, 0x00000009⟩,
   ⟨"syscall", 0xFC00003F, 0x0000000C⟩, ⟨"mfhi", 0xFFFF07FF, 0x00000010⟩,
   ⟨"mthi", 0xFC1FFFFF, 0x00000011⟩, ⟨"mflo", 0xFFFF07FF, 0x00000012⟩,
   ⟨"mtlo", 0xFC1FFFFF, 0x00000013⟩, ⟨"mult", 0xFC00FFFF, 0x00000018⟩,
   ⟨"multu", 0xFC00FFFF, 0x00000019⟩, ⟨"div", 0xFC00FFFF, 0x0000001A⟩,
   ⟨"divu", 0xFC00FFFF, 0x0000001B⟩, ⟨"add", 0xFC0007FF, 0x00000020⟩,
   ⟨"addu", 0xFC0007FF, 0x00000021⟩, ⟨"sub", 0xFC0007FF, 0x00000022⟩,
   ⟨"subu", 0xFC0007FF, 0x00000023⟩, ⟨"and", 0xFC0007FF, 0x00000024⟩,
   ⟨"or", 0xFC0007FF, 0x00000025⟩, ⟨"xor", 0xFC0007FF, 0x00000026⟩,
   ⟨"nor", 0xFC0007FF, 0x00000027⟩, ⟨"slt", 0xFC0007FF, 0x0000002A⟩,
   ⟨"sltu", 0xFC0007FF, 0x0000002B⟩]

/-- The rows with `op` = 000001 to 001111. -/
def branchAndImmediateRows : List OpcodeRow :=
  [⟨"bltz", 0xFC1F0000, 0x04000000⟩, ⟨"bgez", 0xFC1F0000, 0x04010000⟩,
   ⟨"bltzal", 0xFC1F0000, 0x04100000⟩, ⟨"bgezal", 0xFC1F0000, 0x04110000⟩,
   ⟨"j", 0xFC000000, 0x08000000⟩, ⟨"jal", 0xFC000000, 0x0C000000⟩,
   ⟨"beq", 0xFC000000, 0x10000000⟩, ⟨"bne", 0xFC000000, 0x14000000⟩,
   ⟨"blez", 0xFC1F0000, 0x18000000⟩, ⟨"bgtz", 0xFC1F0000, 0x1C000000⟩,
   ⟨"addi", 0xFC000000, 0x20000000⟩, ⟨"addiu", 0xFC000000, 0x24000000⟩,
   ⟨"slti", 0xFC000000, 0x28000000⟩, ⟨"sltiu", 0xFC000000, 0x2C000000⟩,
   ⟨"andi", 0xFC000000, 0x30000000⟩, ⟨"ori", 0xFC000000, 0x34000000⟩,
   ⟨"xori", 0xFC000000, 0x38000000⟩, ⟨"lui", 0xFFE00000, 0x3C000000⟩]

/-- The rows with `op` = 010000 and above. -/
def cop0AndMemoryRows : List OpcodeRow :=
  [⟨"mfc0", 0xFFE007FF, 0x40000000⟩, ⟨"mtc0", 0xFFE007FF, 0x40800000⟩,
   ⟨"rfe", 0xFFFFFFFF, 0x42000010⟩, ⟨"lb", 0xFC000000, 0x80000000⟩,
   ⟨"lh", 0xFC000000, 0x84000000⟩, ⟨"lwl", 0xFC000000, 0x88000000⟩,
   ⟨"lw", 0xFC000000, 0x8C000000⟩, ⟨"lbu", 0xFC000000, 0x90000000⟩,
   ⟨"lhu", 0xFC000000, 0x94000000⟩, ⟨"lwr", 0xFC000000, 0x98000000⟩,
   ⟨"sb", 0xFC000000, 0xA0000000⟩, ⟨"sh", 0xFC000000, 0xA4000000⟩,
   ⟨"swl", 0xFC000000, 0xA8000000⟩, ⟨"sw", 0xFC000000, 0xAC000000⟩,
   ⟨"swr", 0xFC000000, 0xB8000000⟩]

/-- The 60 rows of R120. -/
def opcodeTable : List OpcodeRow :=
  specialRows ++ branchAndImmediateRows ++ cop0AndMemoryRows

end Sys2Proof
end

