-- ==== Sys2Proof/Machine/State.lean ====
section
/-! DEFINITION. The state of the machine (`10_state.md`, `00_scope.md` R11), the reasons a step can stop, and
the state after reset (R39, `70_reset_and_hazards.md` R420). -/

namespace Sys2Proof.Machine

/-- The machine stops with a fault for no reason at all: whatever keeps an instruction from completing is an
architectural exception (R12, R370), and taking it is a next state (R380). So this type has no constructor. -/
inductive Fault where
  deriving DecidableEq, Repr

/-- Where the model gives no meaning. -/
inductive Refusal where
  /-- Raised by an arm of `exec` whose instruction has no meaning yet. No arm raises it now. Safe. -/
  | notModelled (mnemonic : String)
  /-- Raised by `mfc0` naming a coprocessor-0 register that R37 calls undefined: "the model refuses it". Safe. -/
  | mfc0Undefined (n : BitVec 5)
  /-- Raised by `mtc0` naming a coprocessor-0 register that R37 calls undefined: "the model refuses it". Safe. -/
  | mtc0Undefined (n : BitVec 5)
  deriving DecidableEq, Repr

/-- The exceptions of `60_exceptions.md` R370. An address error carries the address `BadVAddr` receives. -/
inductive Exc where
  | int
  | adEL (addr : Word)
  | adES (addr : Word)
  | ibe
  | dbe
  | sys
  | ri
  | ov
  deriving DecidableEq, Repr

/-- `cp0.Status` (R32): its 14 bits of state. `modes` is bits 5:0, `KUo IEo KUp IEp KUc IEc` from the most
significant; `im` is bits 15:8. The other bits hold no state (R33). -/
structure Status where
  modes : BitVec 6
  im : BitVec 8
  deriving DecidableEq, Repr

/-- `cp0.Cause` (R34): `bd` is bit 31, `ce` bits 29:28, `ipExt` bits 15:10 (`IP[7:2]`), `ipSw` bits 9:8
(`IP[1:0]`), `excCode` bits 5:2. The other bits hold no state (R33). -/
structure Cause where
  bd : BitVec 1
  ce : BitVec 2
  ipExt : BitVec 6
  ipSw : BitVec 2
  excCode : BitVec 4
  deriving DecidableEq, Repr

/-- Memory as the listed bytes, keyed by address (`20_memory.md` R60); an unlisted byte reads
`Config.unlistedByte`. -/
abbrev Memory := List Host.Cell

/-- The whole state (R11), the step number of R420, the parameters of R4, and the model's own counter of
free words. -/
structure State where
  /-- `x[1]` to `x[31]`, `x[r]` at index `r - 1`; `x[0]` has no storage (R20, R21). -/
  gpr : Vector Word 31
  /-- The address of the instruction being executed (R24). -/
  pc : Word
  /-- R27. -/
  hi : Word
  /-- R27. -/
  lo : Word
  /-- Coprocessor-0 register 8 (R31). -/
  badVAddr : Word
  /-- Coprocessor-0 register 12 (R32). -/
  status : Status
  /-- Coprocessor-0 register 13 (R34). -/
  cause : Cause
  /-- Coprocessor-0 register 14 (R36). -/
  epc : Word
  /-- R60. -/
  mem : Memory
  /-- The step number `t` of `EXT_IRQ` (R376, R420). -/
  stepNo : Nat
  /-- The model's own: how many free words have been used (log 7). -/
  draws : Nat
  /-- The parameters of R4, which no step changes (log 1). -/
  par : Params
  deriving DecidableEq, Repr

/-- The sample of the external interrupt lines before step `t` (R376). -/
def extIrqAt (p : Params) (t : Nat) : BitVec 6 := p.extIrq.getD t 0#6

/-- What the environment chooses at launch (R4, R10, R420): the parameters and everything R39 calls
unspecified. The default of each is a logged choice (logs 2 to 5, 9 to 12). -/
structure Launch where
  par : Params := Params.default
  resetPc : Word := Config.resetPc
  gpr : Vector Word 31 := Vector.replicate 31 Config.unspecifiedReset
  hi : Word := Config.unspecifiedReset
  lo : Word := Config.unspecifiedReset
  badVAddr : Word := Config.unspecifiedReset
  epc : Word := Config.unspecifiedReset
  ce : BitVec 2 := 0#2
  mem : Memory := []
  deriving DecidableEq, Repr

/-- The state before the first step of a launch (R39, R420). -/
def State.launch (l : Launch) : State where
  gpr := l.gpr
  pc := l.resetPc
  hi := l.hi
  lo := l.lo
  badVAddr := l.badVAddr
  status := { modes := 0#6, im := 0#8 }
  cause := { bd := 0#1, ce := l.ce, ipExt := extIrqAt l.par 0, ipSw := 0#2, excCode := 0#4 }
  epc := l.epc
  mem := l.mem
  stepNo := 0
  draws := 0
  par := l.par

/-- The machine right after reset: the launch with every default (R420; logs 2 to 5, 9 to 12). -/
def State.reset : State := State.launch {}

end Sys2Proof.Machine
end

