-- ==== Sys2Proof/Machine/Flags.lean ====
section
/-! DEFINITION. The machine has no flag register and no condition codes (`10_state.md` R28). What stands in
their place: the overflow condition (R371), and the enable, mode and pending bits of `Status` and `Cause`
(R32, R34, R377, R380, R352). -/

namespace Sys2Proof.Machine

/-! ### Overflow (R371) -/

/-- The exact result fits a signed 32-bit register: `-2^31 .. 2^31 - 1` (R140, R371). -/
def fitsSigned (r : Int) : Bool := decide (-2 ^ 31 ≤ r) && decide (r ≤ 2 ^ 31 - 1)

/-! ### The mode and interrupt-enable stack of `Status` (R32) -/

/-- `IEc`, bit 0. -/
def Status.iec (st : Status) : Bool := st.modes.getLsbD 0

/-- `KUc`, bit 1. -/
def Status.kuc (st : Status) : Bool := st.modes.getLsbD 1

/-- `IEp`, bit 2. -/
def Status.iep (st : Status) : Bool := st.modes.getLsbD 2

/-- `KUp`, bit 3. -/
def Status.kup (st : Status) : Bool := st.modes.getLsbD 3

/-- `IEo`, bit 4. -/
def Status.ieo (st : Status) : Bool := st.modes.getLsbD 4

/-- `KUo`, bit 5. -/
def Status.kuo (st : Status) : Bool := st.modes.getLsbD 5

/-- Exception entry: `Status[5:0] <- Status[3:0] || 00` (R32, R380). -/
def Status.push (st : Status) : Status :=
  { st with modes := st.modes.extractLsb' 0 4 ++ 0#2 }

/-- `rfe`: `Status[3:0] <- Status[5:2]`, bits 5:4 unchanged (R32, R352). -/
def Status.pop (st : Status) : Status :=
  { st with modes := st.modes.extractLsb' 4 2 ++ st.modes.extractLsb' 2 4 }

/-- The 32-bit value of `Status`; the reserved bits 31:16 and 7:6 are those of `f` (R33, R350). -/
def Status.word (st : Status) (f : Word) : Word :=
  f.extractLsb' 16 16 ++ st.im ++ f.extractLsb' 6 2 ++ st.modes

/-- `mtc0` to `Status`: bits 15:8 and 5:0 from `v` (R351). -/
def Status.ofWord (v : Word) : Status :=
  { modes := v.extractLsb' 0 6, im := v.extractLsb' 8 8 }

/-! ### `Cause` (R34, R35) -/

/-- `IP[7:0]`, bits 15:8. -/
def Cause.ip (c : Cause) : BitVec 8 := c.ipExt ++ c.ipSw

/-- The 32-bit value of `Cause`, `BD || any || CE || any(12) || IP || any(2) || ExcCode || any(2)`; the
reserved bits are those of `f` (R35). -/
def Cause.word (c : Cause) (f : Word) : Word :=
  c.bd ++ f.extractLsb' 30 1 ++ c.ce ++ f.extractLsb' 16 12 ++ c.ip ++ f.extractLsb' 6 2
    ++ c.excCode ++ f.extractLsb' 0 2

/-- `mtc0` to `Cause`: `IP[1:0]` from bits 9:8 of `v`, nothing else (R35, R351). -/
def Cause.writeSw (c : Cause) (v : Word) : Cause :=
  { c with ipSw := v.extractLsb' 8 2 }

/-- The interrupt condition of R377: `IEc = 1` and `(IP & IM) != 0`. -/
def interruptPending (st : Status) (c : Cause) : Bool :=
  st.iec && (c.ip &&& st.im != 0#8)

/-! ### Exception codes (R370) -/

/-- The value `Cause.ExcCode` receives (R370). -/
def Exc.code : Exc → BitVec 4
  | .int => 0#4
  | .adEL _ => 4#4
  | .adES _ => 5#4
  | .ibe => 6#4
  | .dbe => 7#4
  | .sys => 8#4
  | .ri => 10#4
  | .ov => 12#4

/-- The address `BadVAddr` receives, for the two causes that write it (R31, R370). -/
def Exc.badAddr : Exc → Option Word
  | .adEL a => some a
  | .adES a => some a
  | _ => none

end Sys2Proof.Machine
end

