-- ==== Sys2Proof/Machine/Ops.lean ====
section
/-! DEFINITION. The operations every meaning is built from: registers, memory, access checks, exception
entry and return, free words, and points 1 to 4 of the instruction cycle (`10_state.md` R26). -/

namespace Sys2Proof.Machine

/-! ### General registers (R20, R21) -/

/-- `x[r]`; `x[0]` reads zero. -/
def State.reg (s : State) (r : Reg) : Word :=
  if r = 0#5 then 0#32 else s.gpr[r.toNat - 1]'(by have := r.isLt; omega)

/-- `x[r] <- v`; a write to `x[0]` is discarded. -/
def State.setReg (s : State) (r : Reg) (v : Word) : State :=
  { s with
    gpr := if r = 0#5 then s.gpr else s.gpr.set (r.toNat - 1) v (by have := r.isLt; omega) }

/-! ### The other registers -/

/-- `pc <- v`. -/
def State.setPc (s : State) (v : Word) : State := { s with pc := v }

/-- `pc <- pc + 4`, modulo 2^32 (R25). -/
def State.advance (s : State) : State := s.setPc (s.pc + 4#32)

/-- `hi <- h`, `lo <- l` (R27). -/
def State.setHiLo (s : State) (h l : Word) : State := { s with hi := h, lo := l }

/-- `cp0.Status <- st`. -/
def State.setStatus (s : State) (st : Status) : State := { s with status := st }

/-- `cp0.Cause <- c`. -/
def State.setCause (s : State) (c : Cause) : State := { s with cause := c }

/-- `cp0.EPC <- v`. -/
def State.setEpc (s : State) (v : Word) : State := { s with epc := v }

/-! ### Free words (R13; logs 6 to 8) -/

/-- The `k`-th free word from here on. -/
def State.free (s : State) (k : Nat) : Word := Config.freeWord (s.draws + k)

/-- `k` free words have been used. -/
def State.drew (s : State) (k : Nat) : State := { s with draws := s.draws + k }

/-! ### Memory (`20_memory.md` R60 to R63) -/

/-- The byte at an address. -/
def Memory.readByte : Memory → Nat → Byte
  | [], _ => Config.unlistedByte
  | (k, b) :: m, a => if a = k then b else Memory.readByte m a

/-- The memory without an entry for `a`. -/
def Memory.erase : Memory → Nat → Memory
  | [], _ => []
  | (k, b) :: m, a => if a = k then Memory.erase m a else (k, b) :: Memory.erase m a

/-- The memory with an entry for `a`, in its place in the rising order. -/
def Memory.insert : Memory → Nat → Byte → Memory
  | [], a, v => [(a, v)]
  | (k, b) :: m, a, v =>
    if a < k then (a, v) :: (k, b) :: m
    else if a = k then (a, v) :: m
    else (k, b) :: Memory.insert m a v

/-- Storing a byte: the value an unlisted byte reads as removes the entry, so that equal memories are equal
data. -/
def Memory.writeByte (m : Memory) (a : Nat) (v : Byte) : Memory :=
  if v = Config.unlistedByte then Memory.erase m a else Memory.insert m a v

/-- From address `lo` on: addresses strictly rising and below 2^32, no entry equal to what an unlisted byte
reads as. -/
def Memory.wfFrom : Nat → Memory → Bool
  | _, [] => true
  | lo, (k, b) :: m =>
    decide (lo ≤ k) && decide (k < 2 ^ 32) && b != Config.unlistedByte && Memory.wfFrom (k + 1) m

/-- The canonical form of memory. -/
def Memory.wf (m : Memory) : Bool := Memory.wfFrom 0 m

/-- `M[a]`. -/
def State.byteAt (s : State) (a : Word) : Byte := Memory.readByte s.mem a.toNat

/-- `M[a] <- v`. -/
def State.setByte (s : State) (a : Word) (v : Byte) : State :=
  { s with mem := Memory.writeByte s.mem a.toNat v }

/-- The 16-bit value of `M[a]`, `M[a+1]` under `ENDIAN` (R62). -/
def State.halfAt (s : State) (a : Word) : Half :=
  joinHalf s.par.endian (s.byteAt a) (s.byteAt (a + 1#32))

/-- The 32-bit value of `M[a] .. M[a+3]` under `ENDIAN` (R62, R63). -/
def State.wordAt (s : State) (a : Word) : Word :=
  joinWord s.par.endian (s.byteAt a) (s.byteAt (a + 1#32)) (s.byteAt (a + 2#32)) (s.byteAt (a + 3#32))

/-- The low halfword of `v` to `M[a]`, `M[a+1]` under `ENDIAN` (R62, R67). -/
def State.setHalf (s : State) (a v : Word) : State :=
  (s.setByte a (halfByte s.par.endian v 0)).setByte (a + 1#32) (halfByte s.par.endian v 1)

/-- `v` to `M[a] .. M[a+3]` under `ENDIAN` (R62, R67). -/
def State.setWord (s : State) (a v : Word) : State :=
  (((s.setByte a (wordByte s.par.endian v 0)).setByte (a + 1#32) (wordByte s.par.endian v 1)).setByte
    (a + 2#32) (wordByte s.par.endian v 2)).setByte (a + 3#32) (wordByte s.par.endian v 3)

/-! ### Access checks (R64 to R69, R73) -/

/-- What an access is for; it decides which exceptions it raises. -/
inductive Access where
  | fetch
  | load
  | store
  deriving DecidableEq, Repr

/-- The address error of an access at `a` (R64). -/
def Access.addressError (k : Access) (a : Word) : Exc :=
  match k with
  | .fetch => .adEL a
  | .load => .adEL a
  | .store => .adES a

/-- The bus error of an access (R73). -/
def Access.busError (k : Access) : Exc :=
  match k with
  | .fetch => .ibe
  | .load => .dbe
  | .store => .dbe

/-- `MEM_BACKED(a)` (R73): `a` lies in no unbacked range. -/
def backed (p : Params) (a : Word) : Bool :=
  p.unbacked.all fun r => decide (a.toNat < r.first) || decide (r.last < a.toNat)

/-- The `n` bytes from `a` on, modulo 2^32, are all backed. -/
def allBacked (p : Params) (a : Word) (n : Nat) : Bool :=
  (List.range n).all fun i => backed p (a + BitVec.ofNat 32 i)

/-- The exception an `n`-byte access at `a` raises, if any: the address error before the bus error (R66, R67,
R68, R379). -/
def accessError (p : Params) (k : Access) (a : Word) (n : Nat) : Option Exc :=
  if a.toNat % n = 0 then
    if allBacked p a n then none else some k.busError
  else some (k.addressError a)

/-- The aligned word that holds `a`, `a & 0xFFFFFFFC` (R69). -/
def alignedWord (a : Word) : Word := a &&& 0xFFFFFFFC#32

/-! ### Taking an exception and returning from one (`60_exceptions.md` R380, `49_system.md` R352) -/

/-- `EXC_VECTOR` (R4, R380). -/
def excVector : Word := 0x80000080#32

/-- `raise e`: the whole effect of a step that takes an exception (R380). -/
def State.raise (s : State) (e : Exc) : State :=
  { s with
    epc := s.pc
    cause := { s.cause with excCode := e.code, bd := 0#1, ce := 0#2 }
    badVAddr := e.badAddr.getD s.badVAddr
    status := s.status.push
    pc := excVector }

/-- The return half that `rfe` performs: the mode stack is popped, `pc` and `EPC` take no part (R352). -/
def State.returnFromException (s : State) : State := s.setStatus s.status.pop

/-! ### Outcomes shared by the meanings -/

/-- The outcome of an instruction. -/
abbrev Result := Host.Outcome State Fault Refusal

/-- The instruction completes and the next one follows it in memory (R25). -/
def State.complete (s : State) : Result := .next s.advance

/-- The instruction raises `e` (R380). -/
def State.trap (s : State) (e : Exc) : Result := .next (s.raise e)

/-- A signed result is written, or overflows: `Ov` and no write (R140, R142, R144). -/
def State.writeSigned (s : State) (rd : Reg) (r : Int) : Result :=
  if fitsSigned r then (s.setReg rd (BitVec.ofInt 32 r)).complete else s.trap .ov

/-- `hi` and `lo` receive free words (R146, R147, U2). -/
def State.drawHiLo (s : State) : Result := ((s.setHiLo (s.free 1) (s.free 0)).drew 2).complete

/-- An `n`-byte load at `a` whose value for `rt` is `v`: the checks, then the write (R66, R318). -/
def State.loadReg (s : State) (a : Word) (n : Nat) (rt : Reg) (v : Word) : Result :=
  match accessError s.par .load a n with
  | some e => s.trap e
  | none => (s.setReg rt v).complete

/-- An `n`-byte store at `a` that leaves `s'`: the checks, then the write (R67, R295). -/
def State.storeMem (s : State) (a : Word) (n : Nat) (s' : State) : Result :=
  match accessError s.par .store a n with
  | some e => s.trap e
  | none => s'.complete

/-- `pc <- target` if the condition holds, else `pc <- pc + 4` (R251). -/
def State.branchTo (s : State) (c : Bool) (target : Word) : Result :=
  .next (s.setPc (if c then target else s.pc + 4#32))

/-! ### The instruction cycle, points 1 to 4 (R26) -/

/-- Point 1: `IP[7:2] <- EXT_IRQ(t)`; `t` moves on (R376). -/
def State.poll (s : State) : State :=
  { s with
    cause := { s.cause with ipExt := extIrqAt s.par s.stepNo }
    stepNo := s.stepNo + 1 }

/-- `Fetch(pc)` (R68). -/
def State.fetch (s : State) : Except Exc Word :=
  match accessError s.par .fetch s.pc 4 with
  | some e => .error e
  | none => .ok (s.wordAt s.pc)

/-- Points 2 to 4: the interrupt test, the fetch, the decoding; the first condition that holds is the
exception taken (R26, R377, R379). -/
def State.select (s : State) : Except Exc Instr :=
  if interruptPending s.status s.cause then .error .int
  else
    match s.fetch with
    | .error e => .error e
    | .ok w =>
      match decode w with
      | .error _ => .error .ri
      | .ok i => .ok i

end Sys2Proof.Machine
end

