-- ==== Sys2Proof/Machine/Operands.lean ====
section
/-! DEFINITION. The operand forms of `30_encoding.md` section 2: immediates, shift distances, branch and jump
targets, effective addresses, and the label arithmetic that inverts them (R123). -/

namespace Sys2Proof.Machine

/-- The value of general register `r` as a signed integer (R7). -/
def State.sreg (s : State) (r : Reg) : Int := (s.reg r).toInt

/-- The value of general register `r` as an unsigned integer (R7). -/
def State.ureg (s : State) (r : Reg) : Nat := (s.reg r).toNat

/-- The operand of `lui`: `imm || 0x0000` (R107). -/
def upperHalf (imm : Half) : Word := imm ++ 0x0000#16

/-- The distance of a variable shift: `x[rs][4:0]` (R110). -/
def State.distance (s : State) (rs : Reg) : BitVec 5 := (s.reg rs).extractLsb' 0 5

/-- `pc + 4 + (sext_32(imm) << 2)` modulo 2^32 (R108, R251). -/
def branchTarget (pc : Word) (imm : Half) : Word := pc + 4#32 + (sextHalf imm <<< 2)

/-- `(pc + 4)[31:28] || target || 00` (R109). -/
def jumpTarget (pc : Word) (target : BitVec 26) : Word :=
  (pc + 4#32).extractLsb' 28 4 ++ target ++ 0#2

/-- The effective address of a load or store: `(x[rs] + sext_32(offset)) mod 2^32` (R74, R295, R318). -/
def State.effAddr (s : State) (rs : Reg) (imm : Half) : Word := s.reg rs + sextHalf imm

/-! ### Partial words (`46_store.md` R293, R294; `47_load.md` R315, R316) -/

/-- The shift of `lwl` and `swl` at effective address `a`. -/
def leftShift (e : Endian) (a : Word) : Nat :=
  match e with
  | .big => 8 * (a.toNat % 4)
  | .little => 8 * (3 - a.toNat % 4)

/-- The shift of `lwr` and `swr` at effective address `a`. -/
def rightShift (e : Endian) (a : Word) : Nat :=
  match e with
  | .big => 8 * (3 - a.toNat % 4)
  | .little => 8 * (a.toNat % 4)

/-- `lwl`: the low bits of the word become the high bits of the register (R315). -/
def mergeLoadLeft (n : Nat) (w old : Word) : Word := (w <<< n) ||| (old &&& (1#32 <<< n) - 1#32)

/-- `lwr`: the high bits of the word become the low bits of the register (R316). -/
def mergeLoadRight (n : Nat) (w old : Word) : Word := (w >>> n) ||| (old &&& ~~~(0xFFFFFFFF#32 >>> n))

/-- `swl`: the high bits of the register become the low bits of the word (R293). -/
def mergeStoreLeft (n : Nat) (v w : Word) : Word := (v >>> n) ||| (w &&& ~~~(0xFFFFFFFF#32 >>> n))

/-- `swr`: the low bits of the register become the high bits of the word (R294). -/
def mergeStoreRight (n : Nat) (v w : Word) : Word := (v <<< n) ||| (w &&& (1#32 <<< n) - 1#32)

/-! ### Labels (R123) -/

/-- The `imm` field of a branch at `b` to the label at `l`; none where R123 calls the distance illegal. The
distance is the 32-bit difference read as signed, so that this inverts R108, which wraps (log 21). -/
def branchField (b l : Word) : Option Half :=
  let d := (l - (b + 4#32)).toInt
  if d % 4 = 0 ∧ -131072 ≤ d ∧ d ≤ 131068 then some (BitVec.ofInt 16 (d / 4)) else none

/-- The `target` field of `j` or `jal` at `b` to the label at `l`; none where R123 calls the label illegal. -/
def jumpField (b l : Word) : Option (BitVec 26) :=
  if l.extractLsb' 0 2 = 0#2 ∧ l.extractLsb' 28 4 = (b + 4#32).extractLsb' 28 4
  then some (l.extractLsb' 2 26) else none

end Sys2Proof.Machine
end

