-- ==== Sys2Proof/Machine/Arithmetic.lean ====
section
/-! DEFINITION. The arithmetic instructions, `40_arithmetic.md` R140 to R149. -/

namespace Sys2Proof.Machine

/-- `add rd, rs, rt` (R140). -/
def execAdd (rd rs rt : Reg) (s : State) : Result := s.writeSigned rd (s.sreg rs + s.sreg rt)

/-- `addu rd, rs, rt` (R141). -/
def execAddu (rd rs rt : Reg) (s : State) : Result := (s.setReg rd (s.reg rs + s.reg rt)).complete

/-- `addi rt, rs, imm` (R142). -/
def execAddi (rt rs : Reg) (imm : Half) (s : State) : Result :=
  s.writeSigned rt (s.sreg rs + (sextHalf imm).toInt)

/-- `addiu rt, rs, imm` (R143): the immediate is sign-extended. -/
def execAddiu (rt rs : Reg) (imm : Half) (s : State) : Result :=
  (s.setReg rt (s.reg rs + sextHalf imm)).complete

/-- `sub rd, rs, rt` (R144). -/
def execSub (rd rs rt : Reg) (s : State) : Result := s.writeSigned rd (s.sreg rs - s.sreg rt)

/-- `subu rd, rs, rt` (R145). -/
def execSubu (rd rs rt : Reg) (s : State) : Result := (s.setReg rd (s.reg rs - s.reg rt)).complete

/-- Quotient and remainder to `lo` and `hi`, each modulo 2^32. -/
def State.quotRem (s : State) (q r : Int) : Result :=
  (s.setHiLo (BitVec.ofInt 32 r) (BitVec.ofInt 32 q)).complete

/-- `div rs, rt` (R146, R162; D16): signed; a zero divisor draws, non-negative operands are exact,
`-2^31 / -1` wraps, and any other negative operand follows `DIV_SIGNED`. -/
def execDiv (rs rt : Reg) (s : State) : Result :=
  let a := s.sreg rs
  let b := s.sreg rt
  if b = 0 then s.drawHiLo
  else if 0 ≤ a ∧ 0 < b then s.quotRem (a / b) (a - b * (a / b))
  else if a = -2 ^ 31 ∧ b = -1 then (s.setHiLo 0x00000000#32 0x80000000#32).complete
  else
    match s.par.divSigned with
    | .truncate => s.quotRem (a.tdiv b) (a - a.tdiv b * b)
    | .draw => s.drawHiLo

/-- `divu rs, rt` (R147, R162): unsigned; a zero divisor draws. -/
def execDivu (rs rt : Reg) (s : State) : Result :=
  let a := s.ureg rs
  let b := s.ureg rt
  if b = 0 then s.drawHiLo
  else (s.setHiLo (BitVec.ofNat 32 (a - b * (a / b))) (BitVec.ofNat 32 (a / b))).complete

/-- The 64-bit product to `hi || lo`. -/
def State.product (s : State) (p : BitVec 64) : Result :=
  (s.setHiLo (p.extractLsb' 32 32) (p.extractLsb' 0 32)).complete

/-- `mult rs, rt` (R148): signed. -/
def execMult (rs rt : Reg) (s : State) : Result :=
  s.product (BitVec.ofInt 64 (s.sreg rs * s.sreg rt))

/-- `multu rs, rt` (R149): unsigned. -/
def execMultu (rs rt : Reg) (s : State) : Result :=
  s.product (BitVec.ofNat 64 (s.ureg rs * s.ureg rt))

end Sys2Proof.Machine
end

