-- ==== Sys2Proof/Machine/BranchJump.lean ====
section
/-! DEFINITION. The branch and jump instructions, `45_branch_jump.md` R250 to R265. No delay slot (R250). -/

namespace Sys2Proof.Machine

/-- The link value of R259: the address of the instruction that follows. -/
def State.link (s : State) : Word := s.pc + 4#32

/-- `beq rs, rt, label` (R252). -/
def execBeq (rs rt : Reg) (imm : Half) (s : State) : Result :=
  s.branchTo (s.reg rs == s.reg rt) (branchTarget s.pc imm)

/-- `bne rs, rt, label` (R253). -/
def execBne (rs rt : Reg) (imm : Half) (s : State) : Result :=
  s.branchTo (s.reg rs != s.reg rt) (branchTarget s.pc imm)

/-- `bgez rs, label` (R254). -/
def execBgez (rs : Reg) (imm : Half) (s : State) : Result :=
  s.branchTo (decide (0 ≤ s.sreg rs)) (branchTarget s.pc imm)

/-- `bgtz rs, label` (R255). -/
def execBgtz (rs : Reg) (imm : Half) (s : State) : Result :=
  s.branchTo (decide (0 < s.sreg rs)) (branchTarget s.pc imm)

/-- `blez rs, label` (R256). -/
def execBlez (rs : Reg) (imm : Half) (s : State) : Result :=
  s.branchTo (decide (s.sreg rs ≤ 0)) (branchTarget s.pc imm)

/-- `bltz rs, label` (R257). -/
def execBltz (rs : Reg) (imm : Half) (s : State) : Result :=
  s.branchTo (decide (s.sreg rs < 0)) (branchTarget s.pc imm)

/-- `bgezal rs, label` (R260): links whether or not it branches, tests the old `x[rs]`. -/
def execBgezal (rs : Reg) (imm : Half) (s : State) : Result :=
  (s.setReg Reg.ra s.link).branchTo (decide (0 ≤ s.sreg rs)) (branchTarget s.pc imm)

/-- `bltzal rs, label` (R261): links whether or not it branches, tests the old `x[rs]`. -/
def execBltzal (rs : Reg) (imm : Half) (s : State) : Result :=
  (s.setReg Reg.ra s.link).branchTo (decide (s.sreg rs < 0)) (branchTarget s.pc imm)

/-- `j target` (R262). -/
def execJ (target : BitVec 26) (s : State) : Result := .next (s.setPc (jumpTarget s.pc target))

/-- `jal target` (R263). -/
def execJal (target : BitVec 26) (s : State) : Result :=
  .next ((s.setReg Reg.ra s.link).setPc (jumpTarget s.pc target))

/-- `jr rs` (R264). -/
def execJr (rs : Reg) (s : State) : Result := .next (s.setPc (s.reg rs))

/-- `jalr rd, rs` (R265): jumps to the old `x[rs]`. -/
def execJalr (rd rs : Reg) (s : State) : Result := .next ((s.setReg rd s.link).setPc (s.reg rs))

end Sys2Proof.Machine
end

