-- ==== Sys2Proof/Machine/Comparison.lean ====
section
/-! DEFINITION. The comparison instructions, `44_comparison.md` R230 to R233. -/

namespace Sys2Proof.Machine

/-- `slt rd, rs, rt` (R230): signed. -/
def execSlt (rd rs rt : Reg) (s : State) : Result :=
  (s.setReg rd (boolWord (decide (s.sreg rs < s.sreg rt)))).complete

/-- `sltu rd, rs, rt` (R231): unsigned. -/
def execSltu (rd rs rt : Reg) (s : State) : Result :=
  (s.setReg rd (boolWord (decide (s.ureg rs < s.ureg rt)))).complete

/-- `slti rt, rs, imm` (R232): signed, the immediate sign-extended. -/
def execSlti (rt rs : Reg) (imm : Half) (s : State) : Result :=
  (s.setReg rt (boolWord (decide (s.sreg rs < (sextHalf imm).toInt)))).complete

/-- `sltiu rt, rs, imm` (R233): the immediate sign-extended, then compared as unsigned. -/
def execSltiu (rt rs : Reg) (imm : Half) (s : State) : Result :=
  (s.setReg rt (boolWord (decide (s.ureg rs < (sextHalf imm).toNat)))).complete

end Sys2Proof.Machine
end

