-- ==== Sys2Proof/Machine/Constant.lean ====
section
/-! DEFINITION. The constant-manipulating instruction, `43_constant.md` R220. -/

namespace Sys2Proof.Machine

/-- `lui rt, imm` (R220). -/
def execLui (rt : Reg) (imm : Half) (s : State) : Result := (s.setReg rt (upperHalf imm)).complete

end Sys2Proof.Machine
end

