-- ==== Sys2Proof/Machine/DataMovement.lean ====
section
/-! DEFINITION. The data movement instructions, `48_data_movement.md` R340 to R343. -/

namespace Sys2Proof.Machine

/-- `mfhi rd` (R340). -/
def execMfhi (rd : Reg) (s : State) : Result := (s.setReg rd s.hi).complete

/-- `mflo rd` (R341). -/
def execMflo (rd : Reg) (s : State) : Result := (s.setReg rd s.lo).complete

/-- `mthi rs` (R342): `lo` is unchanged. -/
def execMthi (rs : Reg) (s : State) : Result := (s.setHiLo (s.reg rs) s.lo).complete

/-- `mtlo rs` (R343): `hi` is unchanged. -/
def execMtlo (rs : Reg) (s : State) : Result := (s.setHiLo s.hi (s.reg rs)).complete

end Sys2Proof.Machine
end

