-- ==== Sys2Proof/Machine/Load.lean ====
section
/-! DEFINITION. The load instructions, `47_load.md` R310 to R318. -/

namespace Sys2Proof.Machine

/-- `lb rt, offset(rs)` (R310). -/
def execLb (rt rs : Reg) (imm : Half) (s : State) : Result :=
  let a := s.effAddr rs imm
  s.loadReg a 1 rt (sextByte (s.byteAt a))

/-- `lbu rt, offset(rs)` (R311). -/
def execLbu (rt rs : Reg) (imm : Half) (s : State) : Result :=
  let a := s.effAddr rs imm
  s.loadReg a 1 rt (zextByte (s.byteAt a))

/-- `lh rt, offset(rs)` (R312). -/
def execLh (rt rs : Reg) (imm : Half) (s : State) : Result :=
  let a := s.effAddr rs imm
  s.loadReg a 2 rt (sextHalf (s.halfAt a))

/-- `lhu rt, offset(rs)` (R313). -/
def execLhu (rt rs : Reg) (imm : Half) (s : State) : Result :=
  let a := s.effAddr rs imm
  s.loadReg a 2 rt (zextHalf (s.halfAt a))

/-- `lw rt, offset(rs)` (R314). -/
def execLw (rt rs : Reg) (imm : Half) (s : State) : Result :=
  let a := s.effAddr rs imm
  s.loadReg a 4 rt (s.wordAt a)

/-- `lwl rt, offset(rs)` (R315, R69). -/
def execLwl (rt rs : Reg) (imm : Half) (s : State) : Result :=
  let a := s.effAddr rs imm
  let w := alignedWord a
  s.loadReg w 4 rt (mergeLoadLeft (leftShift s.par.endian a) (s.wordAt w) (s.reg rt))

/-- `lwr rt, offset(rs)` (R316, R69). -/
def execLwr (rt rs : Reg) (imm : Half) (s : State) : Result :=
  let a := s.effAddr rs imm
  let w := alignedWord a
  s.loadReg w 4 rt (mergeLoadRight (rightShift s.par.endian a) (s.wordAt w) (s.reg rt))

end Sys2Proof.Machine
end

