-- ==== Sys2Proof/Machine/Logical.lean ====
section
/-! DEFINITION. The logical instructions, `42_logical.md` R200 to R206. -/

namespace Sys2Proof.Machine

/-- `and rd, rs, rt` (R200). -/
def execAnd (rd rs rt : Reg) (s : State) : Result := (s.setReg rd (s.reg rs &&& s.reg rt)).complete

/-- `andi rt, rs, imm` (R201): the immediate is zero-extended. -/
def execAndi (rt rs : Reg) (imm : Half) (s : State) : Result :=
  (s.setReg rt (s.reg rs &&& zextHalf imm)).complete

/-- `nor rd, rs, rt` (R202). -/
def execNor (rd rs rt : Reg) (s : State) : Result := (s.setReg rd (~~~(s.reg rs ||| s.reg rt))).complete

/-- `or rd, rs, rt` (R203). -/
def execOr (rd rs rt : Reg) (s : State) : Result := (s.setReg rd (s.reg rs ||| s.reg rt)).complete

/-- `ori rt, rs, imm` (R204). -/
def execOri (rt rs : Reg) (imm : Half) (s : State) : Result :=
  (s.setReg rt (s.reg rs ||| zextHalf imm)).complete

/-- `xor rd, rs, rt` (R205). -/
def execXor (rd rs rt : Reg) (s : State) : Result := (s.setReg rd (s.reg rs ^^^ s.reg rt)).complete

/-- `xori rt, rs, imm` (R206). -/
def execXori (rt rs : Reg) (imm : Half) (s : State) : Result :=
  (s.setReg rt (s.reg rs ^^^ zextHalf imm)).complete

end Sys2Proof.Machine
end

