-- ==== Sys2Proof/Machine/Shift.lean ====
section
/-! DEFINITION. The shift instructions, `41_shift_rotate.md` R180 to R185. The value shifted is `rt`. -/

namespace Sys2Proof.Machine

/-- `sll rd, rt, shamt` (R180). -/
def execSll (rd rt : Reg) (shamt : BitVec 5) (s : State) : Result :=
  (s.setReg rd (s.reg rt <<< shamt.toNat)).complete

/-- `sllv rd, rt, rs` (R181). -/
def execSllv (rd rt rs : Reg) (s : State) : Result :=
  (s.setReg rd (s.reg rt <<< (s.distance rs).toNat)).complete

/-- `sra rd, rt, shamt` (R182). -/
def execSra (rd rt : Reg) (shamt : BitVec 5) (s : State) : Result :=
  (s.setReg rd ((s.reg rt).sshiftRight shamt.toNat)).complete

/-- `srav rd, rt, rs` (R183). -/
def execSrav (rd rt rs : Reg) (s : State) : Result :=
  (s.setReg rd ((s.reg rt).sshiftRight (s.distance rs).toNat)).complete

/-- `srl rd, rt, shamt` (R184). -/
def execSrl (rd rt : Reg) (shamt : BitVec 5) (s : State) : Result :=
  (s.setReg rd (s.reg rt >>> shamt.toNat)).complete

/-- `srlv rd, rt, rs` (R185). -/
def execSrlv (rd rt rs : Reg) (s : State) : Result :=
  (s.setReg rd (s.reg rt >>> (s.distance rs).toNat)).complete

end Sys2Proof.Machine
end

