-- ==== Sys2Proof/Machine/Store.lean ====
section
/-! DEFINITION. The store instructions, `46_store.md` R290 to R295. -/

namespace Sys2Proof.Machine

/-- `sb rt, offset(rs)` (R290). -/
def execSb (rt rs : Reg) (imm : Half) (s : State) : Result :=
  let a := s.effAddr rs imm
  s.storeMem a 1 (s.setByte a ((s.reg rt).extractLsb' 0 8))

/-- `sh rt, offset(rs)` (R291). -/
def execSh (rt rs : Reg) (imm : Half) (s : State) : Result :=
  let a := s.effAddr rs imm
  s.storeMem a 2 (s.setHalf a (s.reg rt))

/-- `sw rt, offset(rs)` (R292). -/
def execSw (rt rs : Reg) (imm : Half) (s : State) : Result :=
  let a := s.effAddr rs imm
  s.storeMem a 4 (s.setWord a (s.reg rt))

/-- `swl rt, offset(rs)` (R293, R69). -/
def execSwl (rt rs : Reg) (imm : Half) (s : State) : Result :=
  let a := s.effAddr rs imm
  let w := alignedWord a
  s.storeMem w 4 (s.setWord w (mergeStoreLeft (leftShift s.par.endian a) (s.reg rt) (s.wordAt w)))

/-- `swr rt, offset(rs)` (R294, R69). -/
def execSwr (rt rs : Reg) (imm : Half) (s : State) : Result :=
  let a := s.effAddr rs imm
  let w := alignedWord a
  s.storeMem w 4 (s.setWord w (mergeStoreRight (rightShift s.par.endian a) (s.reg rt) (s.wordAt w)))

end Sys2Proof.Machine
end

