-- ==== Sys2Proof/Machine/System.lean ====
section
/-! DEFINITION. The system and coprocessor-0 instructions, `49_system.md` R350 to R353. None is privileged (R395). -/

namespace Sys2Proof.Machine

/-- `mfc0 rt, Cs` (R350): the reserved bits of `Status` and `Cause` are a free value at each read (R33). -/
def execMfc0 (rt : Reg) (cs : Cp0Reg) (s : State) : Result :=
  match cs with
  | .badVAddr => (s.setReg rt s.badVAddr).complete
  | .status => ((s.setReg rt (s.status.word (s.free 0))).drew 1).complete
  | .cause => ((s.setReg rt (s.cause.word (s.free 0))).drew 1).complete
  | .epc => (s.setReg rt s.epc).complete
  | .other n => .refused (.mfc0Undefined n)

/-- `mtc0 rt, Cd` (R351): `BadVAddr` ignores the write. -/
def execMtc0 (rt : Reg) (cd : Cp0Reg) (s : State) : Result :=
  match cd with
  | .badVAddr => s.complete
  | .status => (s.setStatus (Status.ofWord (s.reg rt))).complete
  | .cause => (s.setCause (s.cause.writeSw (s.reg rt))).complete
  | .epc => (s.setEpc (s.reg rt)).complete
  | .other n => .refused (.mtc0Undefined n)

/-- `rfe` (R352): the mode stack is popped and the next instruction follows; it does not jump. -/
def execRfe (s : State) : Result := s.returnFromException.complete

/-- `syscall` (R353): raises `Sys`; the `code` field is ignored. -/
def execSyscall (_code : BitVec 20) (s : State) : Result := s.trap .sys

end Sys2Proof.Machine
end

