-- ==== Sys2Proof/Machine/Step.lean ====
section
/-! DEFINITION. One step of the machine: the instruction cycle of `10_state.md` R26. -/

namespace Sys2Proof.Machine

/-- The interrupt lines are sampled (point 1); then either an exception is taken before the execution (points
2 to 4), or the decoded instruction executes (points 5 and 6). -/
def step (s : State) : Host.Outcome State Fault Refusal :=
  match s.poll.select with
  | .error e => s.poll.trap e
  | .ok i => exec i s.poll

/-- `s` with the instruction word of `nbits` bits and value `w` stored at `pc`, where the next step fetches. -/
def State.withFetchWord (s : State) (nbits w : Nat) : State :=
  s.setWord s.pc (tableWord nbits w)

end Sys2Proof.Machine
end

