-- ==== Sys2Proof/Machine/Pseudo.lean ====
section
/-! DEFINITION. The 35 pseudo-instructions of `00_scope.md` R3 and `30_encoding.md` R126. The hardware never sees
one (R125): each is given by its expansion into machine instructions (D30), and by `runBlock`, which runs an
expansion where it lies (log 22). -/

namespace Sys2Proof

/-- The operand `src2` of R128: a general register, or a 16-bit signed immediate (D38). -/
inductive Src2 where
  | reg (r : Reg)
  | imm (k : Half)
  deriving DecidableEq, Repr

/-- The pseudo-instructions, operands in written order. A `label` is the address the assembler gave it. -/
inductive Pseudo where
  -- `40_arithmetic.md` R150 to R159
  | abs (rdest rsrc : Reg)
  | div (rdest rsrc1 : Reg) (src2 : Src2)
  | divu (rdest rsrc1 : Reg) (src2 : Src2)
  | mul (rdest rsrc1 : Reg) (src2 : Src2)
  | mulo (rdest rsrc1 : Reg) (src2 : Src2)
  | mulou (rdest rsrc1 : Reg) (src2 : Src2)
  | neg (rdest rsrc : Reg)
  | negu (rdest rsrc : Reg)
  | rem (rdest rsrc1 rsrc2 : Reg)
  | remu (rdest rsrc1 rsrc2 : Reg)
  -- `41_shift_rotate.md` R186, R187
  | rol (rdest rsrc1 rsrc2 : Reg)
  | ror (rdest rsrc1 rsrc2 : Reg)
  -- `42_logical.md` R207, `43_constant.md` R221
  | not (rdest rsrc : Reg)
  | li (rdest : Reg) (imm : Word)
  -- `44_comparison.md` R234 to R241
  | seq (rdest rsrc1 rsrc2 : Reg)
  | sge (rdest rsrc1 rsrc2 : Reg)
  | sgeu (rdest rsrc1 rsrc2 : Reg)
  | sgt (rdest rsrc1 rsrc2 : Reg)
  | sgtu (rdest rsrc1 rsrc2 : Reg)
  | sle (rdest rsrc1 rsrc2 : Reg)
  | sleu (rdest rsrc1 rsrc2 : Reg)
  | sne (rdest rsrc1 rsrc2 : Reg)
  -- `45_branch_jump.md` R267 to R277
  | b (label : Word)
  | beqz (rsrc : Reg) (label : Word)
  | bge (rsrc1 rsrc2 : Reg) (label : Word)
  | bgeu (rsrc1 rsrc2 : Reg) (label : Word)
  | bgt (rsrc1 : Reg) (src2 : Src2) (label : Word)
  | bgtu (rsrc1 : Reg) (src2 : Src2) (label : Word)
  | ble (rsrc1 : Reg) (src2 : Src2) (label : Word)
  | bleu (rsrc1 : Reg) (src2 : Src2) (label : Word)
  | blt (rsrc1 rsrc2 : Reg) (label : Word)
  | bltu (rsrc1 rsrc2 : Reg) (label : Word)
  | bnez (rsrc : Reg) (label : Word)
  -- `47_load.md` R317, `48_data_movement.md` R344
  | la (rdest : Reg) (label : Word)
  | move (rdest rsrc : Reg)
  deriving DecidableEq, Repr

namespace Machine

/-- The register operands of `src2`. -/
def src2Regs : Src2 → List Reg
  | .reg r => [r]
  | .imm _ => []

/-- The general registers a pseudo-instruction names. -/
def pseudoRegs : Pseudo → List Reg
  | .abs d s | .neg d s | .negu d s | .not d s | .move d s => [d, s]
  | .div d s t | .divu d s t | .mul d s t | .mulo d s t | .mulou d s t => d :: s :: src2Regs t
  | .rem d s t | .remu d s t | .rol d s t | .ror d s t => [d, s, t]
  | .seq d s t | .sge d s t | .sgeu d s t | .sgt d s t => [d, s, t]
  | .sgtu d s t | .sle d s t | .sleu d s t | .sne d s t => [d, s, t]
  | .li d _ | .la d _ => [d]
  | .b _ => []
  | .beqz s _ | .bnez s _ => [s]
  | .bge s t _ | .bgeu s t _ | .blt s t _ | .bltu s t _ => [s, t]
  | .bgt s t _ | .bgtu s t _ | .ble s t _ | .bleu s t _ => s :: src2Regs t

/-- What the assembler accepts (R127, R154, U17): no operand is `$at`, and `mulo`, `mulou` have a destination
other than `$zero`. -/
def pseudoLegal (p : Pseudo) : Bool :=
  (pseudoRegs p).all (· != Reg.at) &&
    match p with
    | .mulo d _ _ | .mulou d _ _ => d != Reg.zero
    | _ => true

/-- `li rd, v` (R221). -/
def liCode (rd : Reg) (v : Word) : List Instr :=
  if v.extractLsb' 16 16 = 0x0000#16 then [.ori rd Reg.zero (v.extractLsb' 0 16)]
  else if v.extractLsb' 15 17 = 0x1FFFF#17 then [.addiu rd Reg.zero (v.extractLsb' 0 16)]
  else if v.extractLsb' 0 16 = 0x0000#16 then [.lui rd (v.extractLsb' 16 16)]
  else [.lui Reg.at (v.extractLsb' 16 16), .ori rd Reg.at (v.extractLsb' 0 16)]

/-- The instructions R128 puts before an expansion: an immediate `src2` is first loaded into `$at`. -/
def src2Code : Src2 → List Instr
  | .reg _ => []
  | .imm k => liCode Reg.at (sextHalf k)

/-- The register that then stands for `src2` (R128). -/
def src2Reg : Src2 → Reg
  | .reg r => r
  | .imm _ => Reg.at

/-- `before`, then a branch to `label` encoded relative to its own address; the whole lies at `base` (R123). -/
def branchLast (base : Word) (before : List Instr) (branch : Half → Instr) (label : Word) :
    Option (List Instr) :=
  (branchField (base + BitVec.ofNat 32 (4 * before.length)) label).map fun imm =>
    before ++ [branch imm]

/-- The two traps of `mulo` and `mulou`: an `add` that is certain to overflow (R154, R155). -/
def overflowTrap : List Instr := [.lui Reg.at 0x7FFF#16, .add Reg.zero Reg.at Reg.at]

/-- The expansion of a pseudo-instruction that lies at `base` (R126 and the rules it lists). -/
def pseudoCode (base : Word) : Pseudo → Option (List Instr)
  | .abs d s => some [.addu d Reg.zero s, .bgez s 1#16, .sub d Reg.zero s]
  | .div d s t => some (src2Code t ++ [.div s (src2Reg t), .mflo d])
  | .divu d s t => some (src2Code t ++ [.divu s (src2Reg t), .mflo d])
  | .mul d s t => some (src2Code t ++ [.mult s (src2Reg t), .mflo d])
  | .mulo d s t =>
    some (src2Code t ++ [.mult s (src2Reg t), .mfhi Reg.at, .mflo d, .sra d d 31#5, .beq Reg.at d 2#16]
      ++ overflowTrap ++ [.mflo d])
  | .mulou d s t =>
    some (src2Code t ++ [.multu s (src2Reg t), .mfhi Reg.at, .beq Reg.at Reg.zero 2#16]
      ++ overflowTrap ++ [.mflo d])
  | .neg d s => some [.sub d Reg.zero s]
  | .negu d s => some [.subu d Reg.zero s]
  | .rem d s t => some [.div s t, .mfhi d]
  | .remu d s t => some [.divu s t, .mfhi d]
  | .rol d s t => some [.subu Reg.at Reg.zero t, .srlv Reg.at s Reg.at, .sllv d s t, .or d d Reg.at]
  | .ror d s t => some [.subu Reg.at Reg.zero t, .sllv Reg.at s Reg.at, .srlv d s t, .or d d Reg.at]
  | .not d s => some [.nor d s Reg.zero]
  | .li d v => some (liCode d v)
  | .seq d s t => some [.xor d s t, .sltiu d d 1#16]
  | .sge d s t => some [.slt d s t, .xori d d 1#16]
  | .sgeu d s t => some [.sltu d s t, .xori d d 1#16]
  | .sgt d s t => some [.slt d t s]
  | .sgtu d s t => some [.sltu d t s]
  | .sle d s t => some [.slt d t s, .xori d d 1#16]
  | .sleu d s t => some [.sltu d t s, .xori d d 1#16]
  | .sne d s t => some [.xor d s t, .sltu d Reg.zero d]
  | .b l => branchLast base [] (.beq Reg.zero Reg.zero) l
  | .beqz s l => branchLast base [] (.beq s Reg.zero) l
  | .bge s t l => branchLast base [.slt Reg.at s t] (.beq Reg.at Reg.zero) l
  | .bgeu s t l => branchLast base [.sltu Reg.at s t] (.beq Reg.at Reg.zero) l
  | .bgt s t l => branchLast base (src2Code t ++ [.slt Reg.at (src2Reg t) s]) (.bne Reg.at Reg.zero) l
  | .bgtu s t l => branchLast base (src2Code t ++ [.sltu Reg.at (src2Reg t) s]) (.bne Reg.at Reg.zero) l
  | .ble s t l => branchLast base (src2Code t ++ [.slt Reg.at (src2Reg t) s]) (.beq Reg.at Reg.zero) l
  | .bleu s t l => branchLast base (src2Code t ++ [.sltu Reg.at (src2Reg t) s]) (.beq Reg.at Reg.zero) l
  | .blt s t l => branchLast base [.slt Reg.at s t] (.bne Reg.at Reg.zero) l
  | .bltu s t l => branchLast base [.sltu Reg.at s t] (.bne Reg.at Reg.zero) l
  | .bnez s l => branchLast base [] (.bne s Reg.zero) l
  | .la d l => some [.lui Reg.at (l.extractLsb' 16 16), .ori d Reg.at (l.extractLsb' 0 16)]
  | .move d s => some [.addu d Reg.zero s]

/-- What the assembler emits at `base`; none for what it refuses (U17, R123). -/
def expand (base : Word) (p : Pseudo) : Option (List Instr) :=
  if pseudoLegal p then pseudoCode base p else none

/-- The code lies at `base`: run at most `fuel` of its instructions, until `pc` leaves it. -/
def runBlock (base : Word) (code : List Instr) : Nat → State → Result
  | 0, s => .next s
  | fuel + 1, s =>
    match code[(s.pc - base).toNat / 4]? with
    | none => .next s
    | some i =>
      match exec i s with
      | .next s' => runBlock base code fuel s'
      | .fault r => .fault r
      | .refused r => .refused r

end Machine

end Sys2Proof
end

