-- ==== Sys2Proof/Safety.lean ====
section
/-! DEFINITION. The terms the statements use: what a state must always satisfy, what each shape of instruction
leaves behind (its result and its whole frame), and what an exception entry leaves behind (`60_exceptions.md`
R380). The counter of free words is the model's own and stands in no frame. -/

namespace Sys2Proof.Machine

/-! ### The invariant -/

/-- The exception codes this machine ever writes (R370), and the 0 that reset leaves (R39). -/
def legalExcCode (c : BitVec 4) : Bool :=
  c == 0#4 || c == 4#4 || c == 5#4 || c == 6#4 || c == 7#4 || c == 8#4 || c == 10#4 || c == 12#4

/-- What every step keeps: memory in its canonical form, `Cause.BD` zero (R34), a legal `Cause.ExcCode` (R370),
and `Cause.IP[7:2]` equal to the last sample of the external lines (R34, R376). -/
structure State.Inv (s : State) : Prop where
  memory : s.mem.wf = true
  branchDelay : s.cause.bd = 0#1
  excCode : legalExcCode s.cause.excCode = true
  externalLines : s.cause.ipExt = extIrqAt s.par (s.stepNo - 1)

/-! ### Frames -/

/-- Every byte of memory reads as before. -/
def SameMemory (s t : State) : Prop := ∀ a : Word, t.byteAt a = s.byteAt a

/-- Every general register reads as before. -/
def SameRegs (s t : State) : Prop := ∀ r : Reg, t.reg r = s.reg r

/-- `hi` and `lo` are as before. -/
def SameHiLo (s t : State) : Prop := t.hi = s.hi ∧ t.lo = s.lo

/-- The coprocessor-0 registers, the step number and the parameters are as before. -/
def SameSystem (s t : State) : Prop :=
  t.badVAddr = s.badVAddr ∧ t.status = s.status ∧ t.cause = s.cause ∧ t.epc = s.epc ∧
    t.stepNo = s.stepNo ∧ t.par = s.par

/-- `rd` holds `v` (but register 0 still reads zero, R21) and every other general register is as before. -/
def OnlyReg (s t : State) (rd : Reg) (v : Word) : Prop :=
  (rd ≠ 0#5 → t.reg rd = v) ∧ t.reg 0#5 = 0#32 ∧ ∀ r : Reg, r ≠ rd → t.reg r = s.reg r

/-! ### Results, one for each shape of instruction -/

/-- The instruction wrote `v` to general register `rd` and nothing else; the next one follows it. -/
def RegResult (s t : State) (rd : Reg) (v : Word) : Prop :=
  OnlyReg s t rd v ∧ t.pc = s.pc + 4#32 ∧ SameHiLo s t ∧ SameMemory s t ∧ SameSystem s t

/-- The instruction wrote `h` to `hi` and `l` to `lo` and nothing else; the next one follows it. -/
def HiLoResult (s t : State) (h l : Word) : Prop :=
  t.hi = h ∧ t.lo = l ∧ t.pc = s.pc + 4#32 ∧ SameRegs s t ∧ SameMemory s t ∧ SameSystem s t

/-- The instruction set `pc` to `target` and changed nothing else. -/
def JumpResult (s t : State) (target : Word) : Prop :=
  t.pc = target ∧ SameRegs s t ∧ SameHiLo s t ∧ SameMemory s t ∧ SameSystem s t

/-- The instruction wrote the link value `pc + 4` to `rd` (R259), set `pc` to `target` and changed nothing else. -/
def LinkResult (s t : State) (rd : Reg) (target : Word) : Prop :=
  OnlyReg s t rd (s.pc + 4#32) ∧ t.pc = target ∧ SameHiLo s t ∧ SameMemory s t ∧ SameSystem s t

/-- The instruction stored `byte i` to address `addr i` for each `i < n` that `touched` admits, and changed nothing
else: every address that is none of them reads as before. The next instruction follows. -/
def StoreResult (s t : State) (n : Nat) (touched : Nat → Prop) (addr : Nat → Word) (byte : Nat → Byte) : Prop :=
  (∀ i, i < n → touched i → t.byteAt (addr i) = byte i) ∧
    (∀ a : Word, (∀ i, i < n → touched i → a ≠ addr i) → t.byteAt a = s.byteAt a) ∧
    t.pc = s.pc + 4#32 ∧ SameRegs s t ∧ SameHiLo s t ∧ SameSystem s t

/-- Only coprocessor-0 registers may have changed; the next instruction follows. -/
def SystemResult (s t : State) : Prop :=
  t.pc = s.pc + 4#32 ∧ SameRegs s t ∧ SameHiLo s t ∧ SameMemory s t ∧ t.stepNo = s.stepNo ∧ t.par = s.par

/-- Exception entry with cause `code` (R380): everything it writes, and that it writes nothing else. `bad` is the
address of an address error. -/
def EntersException (s t : State) (code : BitVec 4) (bad : Option Word) : Prop :=
  t.epc = s.pc ∧
    t.cause.excCode = code ∧ t.cause.bd = 0#1 ∧ t.cause.ce = 0#2 ∧ t.cause.ip = s.cause.ip ∧
    t.badVAddr = bad.getD s.badVAddr ∧
    (t.status.kuo = s.status.kup ∧ t.status.ieo = s.status.iep ∧
      t.status.kup = s.status.kuc ∧ t.status.iep = s.status.iec ∧
      t.status.kuc = false ∧ t.status.iec = false ∧ t.status.im = s.status.im) ∧
    t.pc = 0x80000080#32 ∧
    SameRegs s t ∧ SameHiLo s t ∧ SameMemory s t ∧ t.stepNo = s.stepNo ∧ t.par = s.par

/-! ### The operand `src2` of a pseudo-instruction (`30_encoding.md` R128) -/

/-- The value of `src2`: the register's, or the 16-bit signed immediate's. -/
def src2Value (s : State) : Src2 → Word
  | .reg r => s.reg r
  | .imm k => k.signExtend 32

/-- The general registers after `src2` is in place: `$at` holds an immediate, and nothing else changes. -/
def withSrc2 (s : State) : Src2 → State
  | .reg _ => s
  | .imm k => s.setReg 1#5 (k.signExtend 32)

/-- How many instructions the assembler puts before the register expansion: the one `li $at, k` of an immediate
takes for a 16-bit signed `k` (`43_constant.md` R221). -/
def src2Size : Src2 → Nat
  | .reg _ => 0
  | .imm _ => 1

/-! ### Byte order -/

/-- The least significant bit of the byte at `a + i` within the `n`-byte value at `a` (`20_memory.md` R62). -/
def bytePlace (e : Endian) (n i : Nat) : Nat :=
  match e with
  | .little => 8 * i
  | .big => 8 * (n - 1 - i)

/-! ### The register table of `10_state.md` R23 -/

/-- The general register an instruction writes. -/
def destination : Instr → Option Reg
  | .add rd _ _ | .addu rd _ _ | .sub rd _ _ | .subu rd _ _ | .and rd _ _ | .or rd _ _ => some rd
  | .xor rd _ _ | .nor rd _ _ | .slt rd _ _ | .sltu rd _ _ => some rd
  | .sllv rd _ _ | .srlv rd _ _ | .srav rd _ _ => some rd
  | .sll rd _ _ | .sra rd _ _ | .srl rd _ _ => some rd
  | .addi rt _ _ | .addiu rt _ _ | .andi rt _ _ | .ori rt _ _ | .xori rt _ _ => some rt
  | .slti rt _ _ | .sltiu rt _ _ => some rt
  | .lui rt _ => some rt
  | .mult _ _ | .multu _ _ | .div _ _ | .divu _ _ => none
  | .mfhi rd | .mflo rd => some rd
  | .mthi _ | .mtlo _ => none
  | .beq _ _ _ | .bne _ _ _ => none
  | .bgez _ _ | .bgtz _ _ | .blez _ _ | .bltz _ _ => none
  | .bgezal _ _ | .bltzal _ _ => some 31#5
  | .j _ => none
  | .jal _ => some 31#5
  | .jr _ => none
  | .jalr rd _ => some rd
  | .lb rt _ _ | .lbu rt _ _ | .lh rt _ _ | .lhu rt _ _ | .lw rt _ _ => some rt
  | .lwl rt _ _ | .lwr rt _ _ => some rt
  | .sb _ _ _ | .sh _ _ _ | .sw _ _ _ | .swl _ _ _ | .swr _ _ _ => none
  | .mfc0 rt _ => some rt
  | .mtc0 _ _ => none
  | .rfe | .syscall _ => none

/-- The general registers an instruction reads. -/
def sources : Instr → List Reg
  | .add _ rs rt | .addu _ rs rt | .sub _ rs rt | .subu _ rs rt | .and _ rs rt | .or _ rs rt => [rs, rt]
  | .xor _ rs rt | .nor _ rs rt | .slt _ rs rt | .sltu _ rs rt => [rs, rt]
  | .sllv _ rt rs | .srlv _ rt rs | .srav _ rt rs => [rt, rs]
  | .sll _ rt _ | .sra _ rt _ | .srl _ rt _ => [rt]
  | .addi _ rs _ | .addiu _ rs _ | .andi _ rs _ | .ori _ rs _ | .xori _ rs _ => [rs]
  | .slti _ rs _ | .sltiu _ rs _ => [rs]
  | .lui _ _ => []
  | .mult rs rt | .multu rs rt | .div rs rt | .divu rs rt => [rs, rt]
  | .mfhi _ | .mflo _ => []
  | .mthi rs | .mtlo rs => [rs]
  | .beq rs rt _ | .bne rs rt _ => [rs, rt]
  | .bgez rs _ | .bgtz rs _ | .blez rs _ | .bltz rs _ => [rs]
  | .bgezal rs _ | .bltzal rs _ => [rs]
  | .j _ | .jal _ => []
  | .jr rs | .jalr _ rs => [rs]
  | .lb _ rs _ | .lbu _ rs _ | .lh _ rs _ | .lhu _ rs _ | .lw _ rs _ => [rs]
  | .lwl rt rs _ | .lwr rt rs _ => [rs, rt]
  | .sb rt rs _ | .sh rt rs _ | .sw rt rs _ | .swl rt rs _ | .swr rt rs _ => [rs, rt]
  | .mfc0 _ _ => []
  | .mtc0 rt _ => [rt]
  | .rfe | .syscall _ => []

/-- The first address and the number of the bytes a store may change (R70): for `swl` and `swr`, the aligned word
of the effective address. -/
def storeSpan (i : Instr) (s : State) : Option (Word × Nat) :=
  match i with
  | .sb _ rs imm => some (s.effAddr rs imm, 1)
  | .sh _ rs imm => some (s.effAddr rs imm, 2)
  | .sw _ rs imm => some (s.effAddr rs imm, 4)
  | .swl _ rs imm | .swr _ rs imm => some (alignedWord (s.effAddr rs imm), 4)
  | _ => none

end Sys2Proof.Machine
end

