-- ==== Sys2Proof/Certificates/Slice0/Obligations.lean ====
section
/-! DEFINITION. The statements for the provers. Each formalises rules of spec/ named in its docstring; a bit
pattern is written as `30_encoding.md` R120 prints it, and a value as the rule computes it. -/

open Sys2Proof
open Sys2Proof.Machine

/-! ### Encoding -/

/-- Decoding the word of a well-formed instruction gives the instruction back, whatever its operands
(`30_encoding.md` R101 to R105, R116). -/
def Obligations.DecodeInvertsEncode : Prop :=
  ∀ i : Instr, i.wellFormed = true → decode (encode i) = .ok i

/-- A word that decodes is the word of its instruction, so no bit of it is dropped, and the instruction is
well-formed (R115, R116). -/
def Obligations.EncodeInvertsDecode : Prop :=
  ∀ (w : Word) (i : Instr), decode w = .ok i → i.wellFormed = true ∧ encode i = w

/-- R115: a word is an instruction iff it satisfies the mask and match of the instruction's row; there are 60
rows and no word satisfies two. -/
def Obligations.DecodeFollowsTheOpcodeTable : Prop :=
  opcodeTable.length = 60 ∧
  (∀ (w : Word) (i : Instr), decode w = .ok i →
    ∃ row ∈ opcodeTable, row.mnemonic = i.mnemonic ∧ w &&& row.mask = row.value) ∧
  (∀ (w : Word), ∀ row ∈ opcodeTable, w &&& row.mask = row.value →
    ∃ i : Instr, decode w = .ok i ∧ i.mnemonic = row.mnemonic) ∧
  (∀ (w : Word), ∀ r₁ ∈ opcodeTable, ∀ r₂ ∈ opcodeTable,
    w &&& r₁.mask = r₁.value → w &&& r₂.mask = r₂.value → r₁ = r₂)

/-- The example words of the instruction rules, one or more of each family (R140 to R353). -/
def Obligations.SampleWordsDecode : Prop :=
  decode 0x00221820#32 = .ok (.add 3#5 1#5 2#5) ∧
  decode 0x2022FFFF#32 = .ok (.addi 2#5 1#5 0xFFFF#16) ∧
  decode 0x0085001A#32 = .ok (.div 4#5 5#5) ∧
  decode 0x00031100#32 = .ok (.sll 2#5 3#5 4#5) ∧
  decode 0x00831004#32 = .ok (.sllv 2#5 3#5 4#5) ∧
  decode 0x3822FFFF#32 = .ok (.xori 2#5 1#5 0xFFFF#16) ∧
  decode 0x3C021234#32 = .ok (.lui 2#5 0x1234#16) ∧
  decode 0x0022182A#32 = .ok (.slt 3#5 1#5 2#5) ∧
  decode 0x1422FFFE#32 = .ok (.bne 1#5 2#5 0xFFFE#16) ∧
  decode 0x04310003#32 = .ok (.bgezal 1#5 3#16) ∧
  decode 0x0C100008#32 = .ok (.jal 0x0100008#26) ∧
  decode 0x0040F809#32 = .ok (.jalr 31#5 2#5) ∧
  decode 0xA4220002#32 = .ok (.sh 2#5 1#5 2#16) ∧
  decode 0x98220001#32 = .ok (.lwr 2#5 1#5 1#16) ∧
  decode 0x00001012#32 = .ok (.mflo 2#5) ∧
  decode 0x401A6800#32 = .ok (.mfc0 26#5 .cause) ∧
  decode 0x40826000#32 = .ok (.mtc0 2#5 .status) ∧
  decode 0x42000010#32 = .ok .rfe ∧
  decode 0x0000000C#32 = .ok (.syscall 0#20)

/-! ### The instruction cycle -/

/-- With no interrupt to take, an aligned and backed `pc` and four bytes there that decode to `i`, the step is
`exec i` on the state whose external lines were sampled and whose step number moved on (`10_state.md` R26). -/
def Obligations.StepRunsTheDecodedInstruction : Prop :=
  ∀ (s : State) (i : Instr),
    (s.status.iec = false ∨ (extIrqAt s.par s.stepNo ++ s.cause.ipSw) &&& s.status.im = 0#8) →
    s.pc.toNat % 4 = 0 →
    (∀ k < 4, backed s.par (s.pc + BitVec.ofNat 32 k) = true) →
    decode
      (match s.par.endian with
        | .little =>
          s.byteAt (s.pc + 3#32) ++ s.byteAt (s.pc + 2#32) ++ s.byteAt (s.pc + 1#32) ++ s.byteAt s.pc
        | .big =>
          s.byteAt s.pc ++ s.byteAt (s.pc + 1#32) ++ s.byteAt (s.pc + 2#32) ++ s.byteAt (s.pc + 3#32)) = .ok i →
    step s =
      exec i { s with
        cause := { s.cause with ipExt := extIrqAt s.par s.stepNo }
        stepNo := s.stepNo + 1 }

/-- R377: an enabled and unmasked request turns the whole step into exception entry with code 0, whatever stands
at `pc`; the request itself stays pending. -/
def Obligations.InterruptTakenBeforeFetch : Prop :=
  ∀ s : State, s.status.iec = true →
    (extIrqAt s.par s.stepNo ++ s.cause.ipSw) &&& s.status.im ≠ 0#8 →
    ∃ t, step s = .next t ∧ EntersException s.poll t 0#4 none ∧
      t.cause.ip = extIrqAt s.par s.stepNo ++ s.cause.ipSw

/-- `20_memory.md` R68: a misaligned `pc` raises `AdEL(pc)`, an unbacked one `IBE`, and otherwise the fetch gives
the four bytes under `ENDIAN`. -/
def Obligations.FetchFaults : Prop :=
  ∀ s : State,
    (s.status.iec = false ∨ (extIrqAt s.par s.stepNo ++ s.cause.ipSw) &&& s.status.im = 0#8) →
    (s.pc.extractLsb' 0 2 ≠ 0#2 →
      ∃ t, step s = .next t ∧ EntersException s.poll t 4#4 (some s.pc)) ∧
    (s.pc.extractLsb' 0 2 = 0#2 → (∃ k < 4, backed s.par (s.pc + BitVec.ofNat 32 k) = false) →
      ∃ t, step s = .next t ∧ EntersException s.poll t 6#4 none) ∧
    (s.pc.extractLsb' 0 2 = 0#2 → (∀ k < 4, backed s.par (s.pc + BitVec.ofNat 32 k) = true) →
      ∃ w, s.fetch = .ok w ∧
        ∀ k < 4, w.extractLsb' (bytePlace s.par.endian 4 k) 8 =
          s.byteAt (s.pc + BitVec.ofNat 32 k))

/-- `30_encoding.md` R118: a fetched word that matches no row raises `RI`, code 10, at its own address; and the
words real processors give to other instructions match no row. -/
def Obligations.ReservedWordRaisesRI : Prop :=
  (∀ (s : State) (w : Word),
    (s.status.iec = false ∨ (extIrqAt s.par s.stepNo ++ s.cause.ipSw) &&& s.status.im = 0#8) →
    s.fetch = .ok w → (∀ row ∈ opcodeTable, w &&& row.mask ≠ row.value) →
    ∃ t, step s = .next t ∧ EntersException s.poll t 10#4 none) ∧
  (∀ w : Word,
    w ∈ [0x0000000D#32, 0x0000000F#32, 0x42000001#32, 0x42000002#32, 0x42000006#32, 0x42000008#32, 0x42000018#32] ∨
      w.extractLsb' 26 6 ∈
        [0x11#6, 0x12#6, 0x13#6, 0x1C#6, 0x30#6, 0x31#6, 0x32#6, 0x33#6, 0x38#6, 0x39#6, 0x3A#6, 0x3B#6] →
    ∀ row ∈ opcodeTable, w &&& row.mask ≠ row.value)

/-- The machine never stops (`00_scope.md` R14, `60_exceptions.md` R384) but where R37 has the model refuse: an
`mfc0` or `mtc0` naming a coprocessor-0 register other than 8, 12, 13, 14. -/
def Obligations.StepStopsOnlyAtUndefinedCp0 : Prop :=
  ∀ s : State,
    (∃ t, step s = .next t) ∨
    (∃ (w : Word) (rt n : BitVec 5), s.fetch = .ok w ∧ n ≠ 8#5 ∧ n ≠ 12#5 ∧ n ≠ 13#5 ∧ n ≠ 14#5 ∧
      ((w = 0b010000#6 ++ 0b00000#5 ++ rt ++ n ++ 0#11 ∧ step s = .refused (.mfc0Undefined n)) ∨
       (w = 0b010000#6 ++ 0b00100#5 ++ rt ++ n ++ 0#11 ∧ step s = .refused (.mtc0Undefined n))))

/-- `10_state.md` R37: a number other than 8, 12, 13, 14 decodes as a valid instruction whose effect the model
refuses. -/
def Obligations.UndefinedCp0RegisterIsRefused : Prop :=
  ∀ (rt n : BitVec 5) (s : State), n ≠ 8#5 → n ≠ 12#5 → n ≠ 13#5 → n ≠ 14#5 →
    decode (0b010000#6 ++ 0b00000#5 ++ rt ++ n ++ 0#11) = .ok (.mfc0 rt (.other n)) ∧
    exec (.mfc0 rt (.other n)) s = .refused (.mfc0Undefined n) ∧
    decode (0b010000#6 ++ 0b00100#5 ++ rt ++ n ++ 0#11) = .ok (.mtc0 rt (.other n)) ∧
    exec (.mtc0 rt (.other n)) s = .refused (.mtc0Undefined n)

/-- `49_system.md` R353: `syscall` always raises `Sys`, code 8, whatever its `code` field, and changes no other
register and no memory. -/
def Obligations.SyscallEntersTheHandler : Prop :=
  ∀ (code : BitVec 20) (s : State),
    decode (0b000000#6 ++ code ++ 0b001100#6) = .ok (.syscall code) ∧
    ∃ t, exec (.syscall code) s = .next t ∧ EntersException s t 8#4 none

/-- `60_exceptions.md` R380: what exception entry writes and that it writes nothing else, for each cause of R370
with its code. -/
def Obligations.ExceptionEntryWrites : Prop :=
  ∀ (s : State) (a : Word),
    EntersException s (s.raise .int) 0#4 none ∧
    EntersException s (s.raise (.adEL a)) 4#4 (some a) ∧
    EntersException s (s.raise (.adES a)) 5#4 (some a) ∧
    EntersException s (s.raise .ibe) 6#4 none ∧
    EntersException s (s.raise .dbe) 7#4 none ∧
    EntersException s (s.raise .sys) 8#4 none ∧
    EntersException s (s.raise .ri) 10#4 none ∧
    EntersException s (s.raise .ov) 12#4 none

/-! ### Arithmetic -/

/-- `40_arithmetic.md` R140, R142: `add` and `addi` write the sum when it fits, and raise `Ov` exactly when the
addends have one sign bit and the 32-bit sum the other. -/
def Obligations.SignedAddition : Prop :=
  ∀ (rd rs rt : Reg) (imm : Half) (s : State),
    decode (0b000000#6 ++ rs ++ rt ++ rd ++ 0b00000#5 ++ 0b100000#6) = .ok (.add rd rs rt) ∧
    decode (0b001000#6 ++ rs ++ rt ++ imm) = .ok (.addi rt rs imm) ∧
    (∀ r : Int, r = (s.reg rs).toInt + (s.reg rt).toInt → -2 ^ 31 ≤ r → r ≤ 2 ^ 31 - 1 →
      ∃ t, exec (.add rd rs rt) s = .next t ∧ RegResult s t rd (BitVec.ofInt 32 r)) ∧
    ((s.reg rs).msb = (s.reg rt).msb → (s.reg rs + s.reg rt).msb ≠ (s.reg rs).msb →
      ∃ t, exec (.add rd rs rt) s = .next t ∧ EntersException s t 12#4 none) ∧
    (¬((s.reg rs).msb = (s.reg rt).msb ∧ (s.reg rs + s.reg rt).msb ≠ (s.reg rs).msb) →
      ∃ t, exec (.add rd rs rt) s = .next t ∧ RegResult s t rd (s.reg rs + s.reg rt)) ∧
    (∀ r : Int, r = (s.reg rs).toInt + (imm.signExtend 32).toInt → -2 ^ 31 ≤ r → r ≤ 2 ^ 31 - 1 →
      ∃ t, exec (.addi rt rs imm) s = .next t ∧ RegResult s t rt (BitVec.ofInt 32 r)) ∧
    ((s.reg rs).msb = imm.msb → (s.reg rs + imm.signExtend 32).msb ≠ (s.reg rs).msb →
      ∃ t, exec (.addi rt rs imm) s = .next t ∧ EntersException s t 12#4 none) ∧
    (¬((s.reg rs).msb = imm.msb ∧ (s.reg rs + imm.signExtend 32).msb ≠ (s.reg rs).msb) →
      ∃ t, exec (.addi rt rs imm) s = .next t ∧ RegResult s t rt (s.reg rs + imm.signExtend 32))

/-- R144: `sub` writes the difference when it fits, and raises `Ov` exactly when the operands differ in sign bit
and the 32-bit difference has the sign bit of the subtrahend. -/
def Obligations.SignedSubtraction : Prop :=
  ∀ (rd rs rt : Reg) (s : State),
    decode (0b000000#6 ++ rs ++ rt ++ rd ++ 0b00000#5 ++ 0b100010#6) = .ok (.sub rd rs rt) ∧
    (∀ r : Int, r = (s.reg rs).toInt - (s.reg rt).toInt → -2 ^ 31 ≤ r → r ≤ 2 ^ 31 - 1 →
      ∃ t, exec (.sub rd rs rt) s = .next t ∧ RegResult s t rd (BitVec.ofInt 32 r)) ∧
    ((s.reg rs).msb ≠ (s.reg rt).msb → (s.reg rs - s.reg rt).msb = (s.reg rt).msb →
      ∃ t, exec (.sub rd rs rt) s = .next t ∧ EntersException s t 12#4 none) ∧
    (¬((s.reg rs).msb ≠ (s.reg rt).msb ∧ (s.reg rs - s.reg rt).msb = (s.reg rt).msb) →
      ∃ t, exec (.sub rd rs rt) s = .next t ∧ RegResult s t rd (s.reg rs - s.reg rt))

/-- R141, R143, R145: `addu`, `addiu` and `subu` compute modulo 2^32 and raise nothing; the immediate of `addiu`
is sign-extended. -/
def Obligations.AdditionWithoutOverflow : Prop :=
  ∀ (rd rs rt : Reg) (imm : Half) (s : State),
    decode (0b000000#6 ++ rs ++ rt ++ rd ++ 0b00000#5 ++ 0b100001#6) = .ok (.addu rd rs rt) ∧
    decode (0b001001#6 ++ rs ++ rt ++ imm) = .ok (.addiu rt rs imm) ∧
    decode (0b000000#6 ++ rs ++ rt ++ rd ++ 0b00000#5 ++ 0b100011#6) = .ok (.subu rd rs rt) ∧
    (∃ t, exec (.addu rd rs rt) s = .next t ∧
      RegResult s t rd (BitVec.ofNat 32 ((s.reg rs).toNat + (s.reg rt).toNat))) ∧
    (∃ t, exec (.addiu rt rs imm) s = .next t ∧
      RegResult s t rt (BitVec.ofInt 32 ((s.reg rs).toNat + imm.toInt))) ∧
    (∃ t, exec (.subu rd rs rt) s = .next t ∧
      RegResult s t rd (BitVec.ofInt 32 ((s.reg rs).toNat - (s.reg rt).toNat)))

/-- R148, R149: `hi || lo` is the exact 64-bit product, signed for `mult` and unsigned for `multu`. -/
def Obligations.Multiplication : Prop :=
  ∀ (rs rt : Reg) (s : State),
    decode (0b000000#6 ++ rs ++ rt ++ 0b00000#5 ++ 0b00000#5 ++ 0b011000#6) = .ok (.mult rs rt) ∧
    decode (0b000000#6 ++ rs ++ rt ++ 0b00000#5 ++ 0b00000#5 ++ 0b011001#6) = .ok (.multu rs rt) ∧
    (∃ t h l, exec (.mult rs rt) s = .next t ∧ HiLoResult s t h l ∧
      (h ++ l).toInt = (s.reg rs).toInt * (s.reg rt).toInt) ∧
    (∃ t h l, exec (.multu rs rt) s = .next t ∧ HiLoResult s t h l ∧
      (h ++ l).toNat = (s.reg rs).toNat * (s.reg rt).toNat)

/-- R147: `divu` leaves quotient and remainder; a zero divisor leaves some two values and raises nothing. -/
def Obligations.UnsignedDivision : Prop :=
  ∀ (rs rt : Reg) (s : State),
    decode (0b000000#6 ++ rs ++ rt ++ 0b00000#5 ++ 0b00000#5 ++ 0b011011#6) = .ok (.divu rs rt) ∧
    ∃ t h l, exec (.divu rs rt) s = .next t ∧ HiLoResult s t h l ∧
      ((s.reg rt).toNat ≠ 0 →
        (s.reg rs).toNat = (s.reg rt).toNat * l.toNat + h.toNat ∧ h.toNat < (s.reg rt).toNat)

/-- R146: `div` never raises; it is exact for non-negative operands, wraps for -2^31 / -1, truncates toward zero
for any other negative operand when `DIV_SIGNED` is the spec's choice, and otherwise leaves some two values. -/
def Obligations.SignedDivision : Prop :=
  ∀ (rs rt : Reg) (s : State),
    decode (0b000000#6 ++ rs ++ rt ++ 0b00000#5 ++ 0b00000#5 ++ 0b011010#6) = .ok (.div rs rt) ∧
    ∃ t h l, exec (.div rs rt) s = .next t ∧ HiLoResult s t h l ∧
      (0 ≤ (s.reg rs).toInt → 0 < (s.reg rt).toInt →
        (s.reg rs).toInt = (s.reg rt).toInt * l.toInt + h.toInt ∧ 0 ≤ h.toInt ∧
          h.toInt < (s.reg rt).toInt) ∧
      ((s.reg rs).toInt = -2 ^ 31 → (s.reg rt).toInt = -1 → l = 0x80000000#32 ∧ h = 0x00000000#32) ∧
      (s.par.divSigned = .truncate → (s.reg rt).toInt ≠ 0 →
        ¬((s.reg rs).toInt = -2 ^ 31 ∧ (s.reg rt).toInt = -1) →
        (s.reg rs).toInt = l.toInt * (s.reg rt).toInt + h.toInt ∧
          h.toInt.natAbs < (s.reg rt).toInt.natAbs ∧
          (h.toInt = 0 ∨ (h.toInt < 0 ↔ (s.reg rs).toInt < 0)))

/-! ### Shifts -/

/-- `41_shift_rotate.md` R180, R182, R184: the shifts by the `shamt` field, as arithmetic on the value. -/
def Obligations.ShiftByImmediate : Prop :=
  ∀ (rd rt : Reg) (sa : BitVec 5) (s : State),
    decode (0b000000#6 ++ 0b00000#5 ++ rt ++ rd ++ sa ++ 0b000000#6) = .ok (.sll rd rt sa) ∧
    decode (0b000000#6 ++ 0b00000#5 ++ rt ++ rd ++ sa ++ 0b000011#6) = .ok (.sra rd rt sa) ∧
    decode (0b000000#6 ++ 0b00000#5 ++ rt ++ rd ++ sa ++ 0b000010#6) = .ok (.srl rd rt sa) ∧
    (∃ t, exec (.sll rd rt sa) s = .next t ∧
      RegResult s t rd (BitVec.ofNat 32 ((s.reg rt).toNat * 2 ^ sa.toNat))) ∧
    (∃ t, exec (.sra rd rt sa) s = .next t ∧
      RegResult s t rd (BitVec.ofInt 32 ((s.reg rt).toInt / 2 ^ sa.toNat))) ∧
    (∃ t, exec (.srl rd rt sa) s = .next t ∧
      RegResult s t rd (BitVec.ofNat 32 ((s.reg rt).toNat / 2 ^ sa.toNat)))

/-- R181, R183, R185: the shifts by a register, of which only the low five bits count. -/
def Obligations.ShiftByRegister : Prop :=
  ∀ (rd rt rs : Reg) (s : State),
    decode (0b000000#6 ++ rs ++ rt ++ rd ++ 0b00000#5 ++ 0b000100#6) = .ok (.sllv rd rt rs) ∧
    decode (0b000000#6 ++ rs ++ rt ++ rd ++ 0b00000#5 ++ 0b000111#6) = .ok (.srav rd rt rs) ∧
    decode (0b000000#6 ++ rs ++ rt ++ rd ++ 0b00000#5 ++ 0b000110#6) = .ok (.srlv rd rt rs) ∧
    (∃ t, exec (.sllv rd rt rs) s = .next t ∧
      RegResult s t rd (BitVec.ofNat 32 ((s.reg rt).toNat * 2 ^ ((s.reg rs).toNat % 32)))) ∧
    (∃ t, exec (.srav rd rt rs) s = .next t ∧
      RegResult s t rd (BitVec.ofInt 32 ((s.reg rt).toInt / 2 ^ ((s.reg rs).toNat % 32)))) ∧
    (∃ t, exec (.srlv rd rt rs) s = .next t ∧
      RegResult s t rd (BitVec.ofNat 32 ((s.reg rt).toNat / 2 ^ ((s.reg rs).toNat % 32))))

/-! ### Logic and constants -/

/-- `42_logical.md` R200, R202, R203, R205: each bit of the result from the same bit of the two operands. -/
def Obligations.LogicalRegister : Prop :=
  ∀ (rd rs rt : Reg) (s : State),
    decode (0b000000#6 ++ rs ++ rt ++ rd ++ 0b00000#5 ++ 0b100100#6) = .ok (.and rd rs rt) ∧
    decode (0b000000#6 ++ rs ++ rt ++ rd ++ 0b00000#5 ++ 0b100111#6) = .ok (.nor rd rs rt) ∧
    decode (0b000000#6 ++ rs ++ rt ++ rd ++ 0b00000#5 ++ 0b100101#6) = .ok (.or rd rs rt) ∧
    decode (0b000000#6 ++ rs ++ rt ++ rd ++ 0b00000#5 ++ 0b100110#6) = .ok (.xor rd rs rt) ∧
    (∃ t v, exec (.and rd rs rt) s = .next t ∧ RegResult s t rd v ∧
      ∀ k < 32, v.getLsbD k = ((s.reg rs).getLsbD k && (s.reg rt).getLsbD k)) ∧
    (∃ t v, exec (.nor rd rs rt) s = .next t ∧ RegResult s t rd v ∧
      ∀ k < 32, v.getLsbD k = (!(s.reg rs).getLsbD k && !(s.reg rt).getLsbD k)) ∧
    (∃ t v, exec (.or rd rs rt) s = .next t ∧ RegResult s t rd v ∧
      ∀ k < 32, v.getLsbD k = ((s.reg rs).getLsbD k || (s.reg rt).getLsbD k)) ∧
    (∃ t v, exec (.xor rd rs rt) s = .next t ∧ RegResult s t rd v ∧
      ∀ k < 32, v.getLsbD k = ((s.reg rs).getLsbD k ^^ (s.reg rt).getLsbD k))

/-- R201, R204, R206: the immediate is zero-extended; destination `rt`. -/
def Obligations.LogicalImmediate : Prop :=
  ∀ (rt rs : Reg) (imm : Half) (s : State),
    decode (0b001100#6 ++ rs ++ rt ++ imm) = .ok (.andi rt rs imm) ∧
    decode (0b001101#6 ++ rs ++ rt ++ imm) = .ok (.ori rt rs imm) ∧
    decode (0b001110#6 ++ rs ++ rt ++ imm) = .ok (.xori rt rs imm) ∧
    (∃ t, exec (.andi rt rs imm) s = .next t ∧ RegResult s t rt (s.reg rs &&& (0x0000#16 ++ imm))) ∧
    (∃ t, exec (.ori rt rs imm) s = .next t ∧ RegResult s t rt (s.reg rs ||| (0x0000#16 ++ imm))) ∧
    (∃ t, exec (.xori rt rs imm) s = .next t ∧ RegResult s t rt (s.reg rs ^^^ (0x0000#16 ++ imm)))

/-- `43_constant.md` R220: bits 31:16 receive `imm`, bits 15:0 become 0. -/
def Obligations.LoadUpperImmediate : Prop :=
  ∀ (rt : Reg) (imm : Half) (s : State),
    decode (0b001111#6 ++ 0b00000#5 ++ rt ++ imm) = .ok (.lui rt imm) ∧
    ∃ t, exec (.lui rt imm) s = .next t ∧ RegResult s t rt (imm ++ 0x0000#16)

/-! ### Comparison -/

/-- `44_comparison.md` R230 to R233: 1 or 0; the immediate is sign-extended and, for `sltiu`, then read as
unsigned. -/
def Obligations.SetLessThan : Prop :=
  ∀ (rd rs rt : Reg) (imm : Half) (s : State),
    decode (0b000000#6 ++ rs ++ rt ++ rd ++ 0b00000#5 ++ 0b101010#6) = .ok (.slt rd rs rt) ∧
    decode (0b000000#6 ++ rs ++ rt ++ rd ++ 0b00000#5 ++ 0b101011#6) = .ok (.sltu rd rs rt) ∧
    decode (0b001010#6 ++ rs ++ rt ++ imm) = .ok (.slti rt rs imm) ∧
    decode (0b001011#6 ++ rs ++ rt ++ imm) = .ok (.sltiu rt rs imm) ∧
    (∃ t, exec (.slt rd rs rt) s = .next t ∧
      RegResult s t rd (if (s.reg rs).toInt < (s.reg rt).toInt then 1#32 else 0#32)) ∧
    (∃ t, exec (.sltu rd rs rt) s = .next t ∧
      RegResult s t rd (if (s.reg rs).toNat < (s.reg rt).toNat then 1#32 else 0#32)) ∧
    (∃ t, exec (.slti rt rs imm) s = .next t ∧
      RegResult s t rt (if (s.reg rs).toInt < imm.toInt then 1#32 else 0#32)) ∧
    (∃ t, exec (.sltiu rt rs imm) s = .next t ∧
      RegResult s t rt (if (s.reg rs).toNat < (imm.signExtend 32).toNat then 1#32 else 0#32))

/-! ### Branches and jumps -/

/-- `45_branch_jump.md` R252 to R257 with the target of R251: `pc + 4 + 4 * offset` modulo 2^32 when the condition
holds, else `pc + 4`; nothing else changes. -/
def Obligations.ConditionalBranches : Prop :=
  ∀ (rs rt : Reg) (imm : Half) (s : State) (taken next : Word),
    taken = BitVec.ofInt 32 (s.pc.toNat + 4 + 4 * imm.toInt) → next = BitVec.ofNat 32 (s.pc.toNat + 4) →
    decode (0b000100#6 ++ rs ++ rt ++ imm) = .ok (.beq rs rt imm) ∧
    decode (0b000101#6 ++ rs ++ rt ++ imm) = .ok (.bne rs rt imm) ∧
    decode (0b000001#6 ++ rs ++ 0b00001#5 ++ imm) = .ok (.bgez rs imm) ∧
    decode (0b000111#6 ++ rs ++ 0b00000#5 ++ imm) = .ok (.bgtz rs imm) ∧
    decode (0b000110#6 ++ rs ++ 0b00000#5 ++ imm) = .ok (.blez rs imm) ∧
    decode (0b000001#6 ++ rs ++ 0b00000#5 ++ imm) = .ok (.bltz rs imm) ∧
    (∃ t, exec (.beq rs rt imm) s = .next t ∧
      JumpResult s t (if s.reg rs = s.reg rt then taken else next)) ∧
    (∃ t, exec (.bne rs rt imm) s = .next t ∧
      JumpResult s t (if s.reg rs ≠ s.reg rt then taken else next)) ∧
    (∃ t, exec (.bgez rs imm) s = .next t ∧
      JumpResult s t (if (s.reg rs).msb = false then taken else next)) ∧
    (∃ t, exec (.bgtz rs imm) s = .next t ∧
      JumpResult s t (if (s.reg rs).msb = false ∧ s.reg rs ≠ 0#32 then taken else next)) ∧
    (∃ t, exec (.blez rs imm) s = .next t ∧
      JumpResult s t (if (s.reg rs).msb = true ∨ s.reg rs = 0#32 then taken else next)) ∧
    (∃ t, exec (.bltz rs imm) s = .next t ∧
      JumpResult s t (if (s.reg rs).msb = true then taken else next))

/-- R260, R261: register 31 receives `pc + 4` whether or not the branch is taken; the test uses the old value of
`rs`, even register 31. -/
def Obligations.LinkingBranches : Prop :=
  ∀ (rs : Reg) (imm : Half) (s : State) (taken next : Word),
    taken = BitVec.ofInt 32 (s.pc.toNat + 4 + 4 * imm.toInt) → next = BitVec.ofNat 32 (s.pc.toNat + 4) →
    decode (0b000001#6 ++ rs ++ 0b10001#5 ++ imm) = .ok (.bgezal rs imm) ∧
    decode (0b000001#6 ++ rs ++ 0b10000#5 ++ imm) = .ok (.bltzal rs imm) ∧
    (∃ t, exec (.bgezal rs imm) s = .next t ∧
      LinkResult s t 31#5 (if 0 ≤ (s.reg rs).toInt then taken else next)) ∧
    (∃ t, exec (.bltzal rs imm) s = .next t ∧
      LinkResult s t 31#5 (if (s.reg rs).toInt < 0 then taken else next))

/-- R262, R263: the new `pc` is `(pc + 4)[31:28] || target || 00`; `jal` links in register 31. -/
def Obligations.Jumps : Prop :=
  ∀ (target : BitVec 26) (s : State),
    decode (0b000010#6 ++ target) = .ok (.j target) ∧
    decode (0b000011#6 ++ target) = .ok (.jal target) ∧
    (∃ t, exec (.j target) s = .next t ∧
      JumpResult s t ((s.pc + 4#32).extractLsb' 28 4 ++ target ++ 0b00#2)) ∧
    (∃ t, exec (.jal target) s = .next t ∧
      LinkResult s t 31#5 ((s.pc + 4#32).extractLsb' 28 4 ++ target ++ 0b00#2))

/-- R264, R265: the new `pc` is the old `x[rs]`, aligned or not; `jalr` links in `rd`, which may be `rs`. -/
def Obligations.RegisterJumps : Prop :=
  ∀ (rd rs : Reg) (s : State),
    decode (0b000000#6 ++ rs ++ 0b00000#5 ++ 0b00000#5 ++ 0b00000#5 ++ 0b001000#6) = .ok (.jr rs) ∧
    decode (0b000000#6 ++ rs ++ 0b00000#5 ++ rd ++ 0b00000#5 ++ 0b001001#6) = .ok (.jalr rd rs) ∧
    (∃ t, exec (.jr rs) s = .next t ∧ JumpResult s t (s.reg rs)) ∧
    (∃ t, exec (.jalr rd rs) s = .next t ∧ LinkResult s t rd (s.reg rs))

/-- Whatever completes from an aligned `pc` leaves an aligned `pc`, but `jr` and `jalr`, which go where their
register says (`20_memory.md` R65, `45_branch_jump.md` R251). -/
def Obligations.PcStaysAligned : Prop :=
  ∀ (i : Instr) (s t : State), s.pc.toNat % 4 = 0 → exec i s = .next t →
    t.pc.toNat % 4 = 0 ∨ (∃ rs, (i = .jr rs ∨ ∃ rd, i = .jalr rd rs) ∧ t.pc = s.reg rs)

/-! ### Loads -/

/-- `47_load.md` R310, R311 with R318: the byte, sign-extended or zero-extended; `DBE` if it is unbacked; never an
address error. -/
def Obligations.ByteLoads : Prop :=
  ∀ (rt rs : Reg) (imm : Half) (s : State) (a : Word),
    a = BitVec.ofInt 32 ((s.reg rs).toNat + imm.toInt) →
    decode (0b100000#6 ++ rs ++ rt ++ imm) = .ok (.lb rt rs imm) ∧
    decode (0b100100#6 ++ rs ++ rt ++ imm) = .ok (.lbu rt rs imm) ∧
    (backed s.par a = true →
      (∃ t, exec (.lb rt rs imm) s = .next t ∧ RegResult s t rt ((s.byteAt a).signExtend 32)) ∧
      (∃ t, exec (.lbu rt rs imm) s = .next t ∧ RegResult s t rt (0x000000#24 ++ s.byteAt a))) ∧
    (backed s.par a = false →
      (∃ t, exec (.lb rt rs imm) s = .next t ∧ EntersException s t 7#4 none) ∧
      (∃ t, exec (.lbu rt rs imm) s = .next t ∧ EntersException s t 7#4 none))

/-- R312, R313 with R318, R62: the halfword under `ENDIAN`, sign-extended or zero-extended; `AdEL` at an odd
address, else `DBE` if a byte of it is unbacked. -/
def Obligations.HalfLoads : Prop :=
  ∀ (rt rs : Reg) (imm : Half) (s : State) (a : Word) (h : Half),
    a = BitVec.ofInt 32 ((s.reg rs).toNat + imm.toInt) →
    h = (match s.par.endian with
      | .little => s.byteAt (a + 1#32) ++ s.byteAt a
      | .big => s.byteAt a ++ s.byteAt (a + 1#32)) →
    decode (0b100001#6 ++ rs ++ rt ++ imm) = .ok (.lh rt rs imm) ∧
    decode (0b100101#6 ++ rs ++ rt ++ imm) = .ok (.lhu rt rs imm) ∧
    (a.getLsbD 0 = false → backed s.par a = true → backed s.par (a + 1#32) = true →
      (∃ t, exec (.lh rt rs imm) s = .next t ∧ RegResult s t rt (h.signExtend 32)) ∧
      (∃ t, exec (.lhu rt rs imm) s = .next t ∧ RegResult s t rt (0x0000#16 ++ h))) ∧
    (a.getLsbD 0 = true →
      (∃ t, exec (.lh rt rs imm) s = .next t ∧ EntersException s t 4#4 (some a)) ∧
      (∃ t, exec (.lhu rt rs imm) s = .next t ∧ EntersException s t 4#4 (some a))) ∧
    (a.getLsbD 0 = false → (backed s.par a = false ∨ backed s.par (a + 1#32) = false) →
      (∃ t, exec (.lh rt rs imm) s = .next t ∧ EntersException s t 7#4 none) ∧
      (∃ t, exec (.lhu rt rs imm) s = .next t ∧ EntersException s t 7#4 none))

/-- R314 with R318, R62: the word under `ENDIAN`; `AdEL` if it is not word-aligned, else `DBE` if a byte of it is
unbacked. -/
def Obligations.WordLoad : Prop :=
  ∀ (rt rs : Reg) (imm : Half) (s : State) (a : Word),
    a = BitVec.ofInt 32 ((s.reg rs).toNat + imm.toInt) →
    decode (0b100011#6 ++ rs ++ rt ++ imm) = .ok (.lw rt rs imm) ∧
    (a.extractLsb' 0 2 = 0b00#2 → (∀ k < 4, backed s.par (a + BitVec.ofNat 32 k) = true) →
      ∃ t v, exec (.lw rt rs imm) s = .next t ∧ RegResult s t rt v ∧
        ∀ k < 4, v.extractLsb' (bytePlace s.par.endian 4 k) 8 =
          s.byteAt (a + BitVec.ofNat 32 k)) ∧
    (a.extractLsb' 0 2 ≠ 0b00#2 →
      ∃ t, exec (.lw rt rs imm) s = .next t ∧ EntersException s t 4#4 (some a)) ∧
    (a.extractLsb' 0 2 = 0b00#2 → (∃ k < 4, backed s.par (a + BitVec.ofNat 32 k) = false) →
      ∃ t, exec (.lw rt rs imm) s = .next t ∧ EntersException s t 7#4 none)

/-- R315, R316 in their byte view: with `b = a[1:0]`, byte `k` of the register counted from the left (`lwl`) or from
the right (`lwr`) comes from `a + k` or `a - k` as long as that stays in the aligned word of `a`; the other bytes are
kept. `DBE` if a byte of that word is unbacked, never an address error (`20_memory.md` R69). -/
def Obligations.PartialLoads : Prop :=
  ∀ (rt rs : Reg) (imm : Half) (s : State) (a : Word) (b : Nat),
    a = BitVec.ofInt 32 ((s.reg rs).toNat + imm.toInt) → b = a.toNat % 4 →
    decode (0b100010#6 ++ rs ++ rt ++ imm) = .ok (.lwl rt rs imm) ∧
    decode (0b100110#6 ++ rs ++ rt ++ imm) = .ok (.lwr rt rs imm) ∧
    ((∀ k < 4, backed s.par (a - BitVec.ofNat 32 b + BitVec.ofNat 32 k) = true) →
      (∃ t v, exec (.lwl rt rs imm) s = .next t ∧ RegResult s t rt v ∧
        ∀ k < 4, v.extractLsb' (8 * (3 - k)) 8 =
          (match s.par.endian with
            | .big => if b + k < 4 then s.byteAt (a + BitVec.ofNat 32 k)
                else (s.reg rt).extractLsb' (8 * (3 - k)) 8
            | .little => if k ≤ b then s.byteAt (a - BitVec.ofNat 32 k)
                else (s.reg rt).extractLsb' (8 * (3 - k)) 8)) ∧
      (∃ t v, exec (.lwr rt rs imm) s = .next t ∧ RegResult s t rt v ∧
        ∀ k < 4, v.extractLsb' (8 * k) 8 =
          (match s.par.endian with
            | .big => if k ≤ b then s.byteAt (a - BitVec.ofNat 32 k) else (s.reg rt).extractLsb' (8 * k) 8
            | .little => if b + k < 4 then s.byteAt (a + BitVec.ofNat 32 k)
                else (s.reg rt).extractLsb' (8 * k) 8))) ∧
    ((∃ k < 4, backed s.par (a - BitVec.ofNat 32 b + BitVec.ofNat 32 k) = false) →
      (∃ t, exec (.lwl rt rs imm) s = .next t ∧ EntersException s t 7#4 none) ∧
      (∃ t, exec (.lwr rt rs imm) s = .next t ∧ EntersException s t 7#4 none))

/-! ### Stores -/

/-- `46_store.md` R290 with R295: the low byte of `x[rt]` at `a`, every other byte unchanged; `DBE` if `a` is
unbacked. -/
def Obligations.ByteStore : Prop :=
  ∀ (rt rs : Reg) (imm : Half) (s : State) (a : Word),
    a = BitVec.ofInt 32 ((s.reg rs).toNat + imm.toInt) →
    decode (0b101000#6 ++ rs ++ rt ++ imm) = .ok (.sb rt rs imm) ∧
    (backed s.par a = true →
      ∃ t, exec (.sb rt rs imm) s = .next t ∧
        StoreResult s t 1 (fun _ => True) (fun _ => a) (fun _ => (s.reg rt).extractLsb' 0 8)) ∧
    (backed s.par a = false → ∃ t, exec (.sb rt rs imm) s = .next t ∧ EntersException s t 7#4 none)

/-- R291 with R295, R62: the low halfword of `x[rt]` at `a` and `a + 1` under `ENDIAN`, every other byte unchanged;
`AdES` at an odd address, else `DBE` if a byte is unbacked. -/
def Obligations.HalfStore : Prop :=
  ∀ (rt rs : Reg) (imm : Half) (s : State) (a : Word),
    a = BitVec.ofInt 32 ((s.reg rs).toNat + imm.toInt) →
    decode (0b101001#6 ++ rs ++ rt ++ imm) = .ok (.sh rt rs imm) ∧
    (a.getLsbD 0 = false → backed s.par a = true → backed s.par (a + 1#32) = true →
      ∃ t, exec (.sh rt rs imm) s = .next t ∧
        StoreResult s t 2 (fun _ => True) (fun k => a + BitVec.ofNat 32 k) (fun k =>
          (s.reg rt).extractLsb' (bytePlace s.par.endian 2 k) 8)) ∧
    (a.getLsbD 0 = true → ∃ t, exec (.sh rt rs imm) s = .next t ∧ EntersException s t 5#4 (some a)) ∧
    (a.getLsbD 0 = false → (backed s.par a = false ∨ backed s.par (a + 1#32) = false) →
      ∃ t, exec (.sh rt rs imm) s = .next t ∧ EntersException s t 7#4 none)

/-- R292 with R295, R62: `x[rt]` at `a` to `a + 3` under `ENDIAN`, every other byte unchanged; `AdES` if `a` is not
word-aligned, else `DBE` if a byte is unbacked. -/
def Obligations.WordStore : Prop :=
  ∀ (rt rs : Reg) (imm : Half) (s : State) (a : Word),
    a = BitVec.ofInt 32 ((s.reg rs).toNat + imm.toInt) →
    decode (0b101011#6 ++ rs ++ rt ++ imm) = .ok (.sw rt rs imm) ∧
    (a.extractLsb' 0 2 = 0b00#2 → (∀ k < 4, backed s.par (a + BitVec.ofNat 32 k) = true) →
      ∃ t, exec (.sw rt rs imm) s = .next t ∧
        StoreResult s t 4 (fun _ => True) (fun k => a + BitVec.ofNat 32 k) (fun k =>
          (s.reg rt).extractLsb' (bytePlace s.par.endian 4 k) 8)) ∧
    (a.extractLsb' 0 2 ≠ 0b00#2 →
      ∃ t, exec (.sw rt rs imm) s = .next t ∧ EntersException s t 5#4 (some a)) ∧
    (a.extractLsb' 0 2 = 0b00#2 → (∃ k < 4, backed s.par (a + BitVec.ofNat 32 k) = false) →
      ∃ t, exec (.sw rt rs imm) s = .next t ∧ EntersException s t 7#4 none)

/-- R293, R294 in their byte view: with `b = a[1:0]`, byte `k` of the register counted from the left (`swl`) or from
the right (`swr`) goes to `a + k` or `a - k` as long as that stays in the aligned word of `a`; every other byte of
memory is unchanged. `DBE` if a byte of that word is unbacked, never an address error. -/
def Obligations.PartialStores : Prop :=
  ∀ (rt rs : Reg) (imm : Half) (s : State) (a : Word) (b : Nat),
    a = BitVec.ofInt 32 ((s.reg rs).toNat + imm.toInt) → b = a.toNat % 4 →
    decode (0b101010#6 ++ rs ++ rt ++ imm) = .ok (.swl rt rs imm) ∧
    decode (0b101110#6 ++ rs ++ rt ++ imm) = .ok (.swr rt rs imm) ∧
    ((∀ k < 4, backed s.par (a - BitVec.ofNat 32 b + BitVec.ofNat 32 k) = true) →
      (∃ t, exec (.swl rt rs imm) s = .next t ∧
        StoreResult s t 4
          (fun k => match s.par.endian with | .big => b + k < 4 | .little => k ≤ b)
          (fun k => match s.par.endian with | .big => a + BitVec.ofNat 32 k | .little => a - BitVec.ofNat 32 k)
          (fun k => (s.reg rt).extractLsb' (8 * (3 - k)) 8)) ∧
      (∃ t, exec (.swr rt rs imm) s = .next t ∧
        StoreResult s t 4
          (fun k => match s.par.endian with | .big => k ≤ b | .little => b + k < 4)
          (fun k => match s.par.endian with | .big => a - BitVec.ofNat 32 k | .little => a + BitVec.ofNat 32 k)
          (fun k => (s.reg rt).extractLsb' (8 * k) 8))) ∧
    ((∃ k < 4, backed s.par (a - BitVec.ofNat 32 b + BitVec.ofNat 32 k) = false) →
      (∃ t, exec (.swl rt rs imm) s = .next t ∧ EntersException s t 7#4 none) ∧
      (∃ t, exec (.swr rt rs imm) s = .next t ∧ EntersException s t 7#4 none))

/-- `47_load.md`, "Partial-word loads": at ANY address `A`, `lwl rt, 0(A)` then `lwr rt, 3(A)` (big) or
`lwr rt, 0(A)` then `lwl rt, 3(A)` (little) load the word at `A` under `ENDIAN`, with `A` in a register other than
`rt` and `rt` not register 0. -/
def Obligations.UnalignedLoadPair : Prop :=
  ∀ (rt rs : Reg) (s : State) (a : Word), a = s.reg rs → rs ≠ rt → rt ≠ 0#5 →
    (∀ k < 4, backed s.par (alignedWord a + BitVec.ofNat 32 k) = true) →
    (∀ k < 4, backed s.par (alignedWord (a + 3#32) + BitVec.ofNat 32 k) = true) →
    ∃ t₁ t₂,
      (match s.par.endian with
        | .big => exec (.lwl rt rs 0#16) s = .next t₁ ∧ exec (.lwr rt rs 3#16) t₁ = .next t₂
        | .little => exec (.lwr rt rs 0#16) s = .next t₁ ∧ exec (.lwl rt rs 3#16) t₁ = .next t₂) ∧
      (∀ k < 4, (t₂.reg rt).extractLsb'
          (bytePlace s.par.endian 4 k) 8 =
        s.byteAt (a + BitVec.ofNat 32 k)) ∧
      (∀ r : Reg, r ≠ rt → t₂.reg r = s.reg r) ∧ t₂.pc = s.pc + 8#32 ∧
      SameHiLo s t₂ ∧ SameMemory s t₂ ∧ SameSystem s t₂

/-- `46_store.md`, "Partial-word stores": at ANY address `A`, `swl rt, 0(A)` then `swr rt, 3(A)` (big) or
`swr rt, 0(A)` then `swl rt, 3(A)` (little) store the word at `A` under `ENDIAN` and no other byte. -/
def Obligations.UnalignedStorePair : Prop :=
  ∀ (rt rs : Reg) (s : State) (a : Word), a = s.reg rs →
    (∀ k < 4, backed s.par (alignedWord a + BitVec.ofNat 32 k) = true) →
    (∀ k < 4, backed s.par (alignedWord (a + 3#32) + BitVec.ofNat 32 k) = true) →
    ∃ t₁ t₂,
      (match s.par.endian with
        | .big => exec (.swl rt rs 0#16) s = .next t₁ ∧ exec (.swr rt rs 3#16) t₁ = .next t₂
        | .little => exec (.swr rt rs 0#16) s = .next t₁ ∧ exec (.swl rt rs 3#16) t₁ = .next t₂) ∧
      (∀ k < 4, t₂.byteAt (a + BitVec.ofNat 32 k) = (s.reg rt).extractLsb'
          (bytePlace s.par.endian 4 k) 8) ∧
      (∀ x : Word, (∀ k < 4, x ≠ a + BitVec.ofNat 32 k) → t₂.byteAt x = s.byteAt x) ∧
      SameRegs s t₂ ∧ t₂.pc = s.pc + 8#32 ∧ SameHiLo s t₂ ∧ SameSystem s t₂

/-- `20_memory.md` R62, R76: after `sw` of a value at an aligned address in `rs`, `lw` there gives the value, `lhu` gives
each of its two halves and `lbu` each of its four bytes, in the places `ENDIAN` says. -/
def Obligations.StoredWordReadsBack : Prop :=
  ∀ (rt rs rd : Reg) (s : State) (v : Word), s.reg rt = v → s.reg rs = s.reg rs &&& 0xFFFFFFFC#32 →
    (∀ k < 4, backed s.par (s.reg rs + BitVec.ofNat 32 k) = true) → rd ≠ 0#5 →
    ∃ t, exec (.sw rt rs 0#16) s = .next t ∧
      (∃ u, exec (.lw rd rs 0#16) t = .next u ∧ u.reg rd = v) ∧
      (∃ u, exec (.lhu rd rs 0#16) t = .next u ∧
        u.reg rd = (match s.par.endian with | .little => v &&& 0xFFFF#32 | .big => v >>> 16)) ∧
      (∃ u, exec (.lhu rd rs 2#16) t = .next u ∧
        u.reg rd = (match s.par.endian with | .little => v >>> 16 | .big => v &&& 0xFFFF#32)) ∧
      (∃ u, exec (.lbu rd rs 0#16) t = .next u ∧
        u.reg rd = (match s.par.endian with | .little => v &&& 0xFF#32 | .big => v >>> 24)) ∧
      (∃ u, exec (.lbu rd rs 1#16) t = .next u ∧
        u.reg rd = (match s.par.endian with | .little => v >>> 8 &&& 0xFF#32 | .big => v >>> 16 &&& 0xFF#32)) ∧
      (∃ u, exec (.lbu rd rs 2#16) t = .next u ∧
        u.reg rd = (match s.par.endian with | .little => v >>> 16 &&& 0xFF#32 | .big => v >>> 8 &&& 0xFF#32)) ∧
      (∃ u, exec (.lbu rd rs 3#16) t = .next u ∧
        u.reg rd = (match s.par.endian with | .little => v >>> 24 | .big => v &&& 0xFF#32))

/-! ### Data movement and coprocessor 0 -/

/-- `48_data_movement.md` R340 to R343: the moves from and to `hi` and `lo`; the other one of the pair is kept. -/
def Obligations.HiLoMoves : Prop :=
  ∀ (rd rs : Reg) (s : State),
    decode (0b000000#6 ++ 0b00000#5 ++ 0b00000#5 ++ rd ++ 0b00000#5 ++ 0b010000#6) = .ok (.mfhi rd) ∧
    decode (0b000000#6 ++ 0b00000#5 ++ 0b00000#5 ++ rd ++ 0b00000#5 ++ 0b010010#6) = .ok (.mflo rd) ∧
    decode (0b000000#6 ++ rs ++ 0b00000#5 ++ 0b00000#5 ++ 0b00000#5 ++ 0b010001#6) = .ok (.mthi rs) ∧
    decode (0b000000#6 ++ rs ++ 0b00000#5 ++ 0b00000#5 ++ 0b00000#5 ++ 0b010011#6) = .ok (.mtlo rs) ∧
    (∃ t, exec (.mfhi rd) s = .next t ∧ RegResult s t rd s.hi) ∧
    (∃ t, exec (.mflo rd) s = .next t ∧ RegResult s t rd s.lo) ∧
    (∃ t, exec (.mthi rs) s = .next t ∧ HiLoResult s t (s.reg rs) s.lo) ∧
    (∃ t, exec (.mtlo rs) s = .next t ∧ HiLoResult s t s.hi (s.reg rs))

/-- `49_system.md` R350: the value each coprocessor-0 register gives, bit by bit; the reserved bits of `Status` and
`Cause` may be anything; a number that names no register is refused. -/
def Obligations.MoveFromCoprocessor0 : Prop :=
  ∀ (rt : Reg) (s : State),
    decode (0b010000#6 ++ 0b00000#5 ++ rt ++ 8#5 ++ 0#11) = .ok (.mfc0 rt .badVAddr) ∧
    decode (0b010000#6 ++ 0b00000#5 ++ rt ++ 12#5 ++ 0#11) = .ok (.mfc0 rt .status) ∧
    decode (0b010000#6 ++ 0b00000#5 ++ rt ++ 13#5 ++ 0#11) = .ok (.mfc0 rt .cause) ∧
    decode (0b010000#6 ++ 0b00000#5 ++ rt ++ 14#5 ++ 0#11) = .ok (.mfc0 rt .epc) ∧
    (∃ t, exec (.mfc0 rt .badVAddr) s = .next t ∧ RegResult s t rt s.badVAddr) ∧
    (∃ t v, exec (.mfc0 rt .status) s = .next t ∧ RegResult s t rt v ∧
      v.extractLsb' 8 8 = s.status.im ∧ v.getLsbD 5 = s.status.kuo ∧ v.getLsbD 4 = s.status.ieo ∧
      v.getLsbD 3 = s.status.kup ∧ v.getLsbD 2 = s.status.iep ∧ v.getLsbD 1 = s.status.kuc ∧
      v.getLsbD 0 = s.status.iec) ∧
    (∃ t v, exec (.mfc0 rt .cause) s = .next t ∧ RegResult s t rt v ∧
      v.extractLsb' 31 1 = s.cause.bd ∧ v.extractLsb' 28 2 = s.cause.ce ∧
      v.extractLsb' 8 8 = s.cause.ip ∧ v.extractLsb' 2 4 = s.cause.excCode) ∧
    (∃ t, exec (.mfc0 rt .epc) s = .next t ∧ RegResult s t rt s.epc) ∧
    (∀ n : BitVec 5, n ∉ [8#5, 12#5, 13#5, 14#5] →
      decode (0b010000#6 ++ 0b00000#5 ++ rt ++ n ++ 0#11) = .ok (.mfc0 rt (.other n)) ∧
      exec (.mfc0 rt (.other n)) s = .refused (.mfc0Undefined n))

/-- R351: `mtc0` writes `IM` and the six mode bits of `Status`, only `IP[1:0]` of `Cause`, all of `EPC`, nothing of
`BadVAddr`; a number that names no register is refused. -/
def Obligations.MoveToCoprocessor0 : Prop :=
  ∀ (rt : Reg) (s : State) (v : Word), v = s.reg rt →
    decode (0b010000#6 ++ 0b00100#5 ++ rt ++ 8#5 ++ 0#11) = .ok (.mtc0 rt .badVAddr) ∧
    decode (0b010000#6 ++ 0b00100#5 ++ rt ++ 12#5 ++ 0#11) = .ok (.mtc0 rt .status) ∧
    decode (0b010000#6 ++ 0b00100#5 ++ rt ++ 13#5 ++ 0#11) = .ok (.mtc0 rt .cause) ∧
    decode (0b010000#6 ++ 0b00100#5 ++ rt ++ 14#5 ++ 0#11) = .ok (.mtc0 rt .epc) ∧
    (∃ t, exec (.mtc0 rt .badVAddr) s = .next t ∧ SystemResult s t ∧
      t.badVAddr = s.badVAddr ∧ t.status = s.status ∧ t.cause = s.cause ∧ t.epc = s.epc) ∧
    (∃ t, exec (.mtc0 rt .status) s = .next t ∧ SystemResult s t ∧
      t.badVAddr = s.badVAddr ∧ t.cause = s.cause ∧ t.epc = s.epc ∧
      t.status.im = v.extractLsb' 8 8 ∧ t.status.kuo = v.getLsbD 5 ∧ t.status.ieo = v.getLsbD 4 ∧
      t.status.kup = v.getLsbD 3 ∧ t.status.iep = v.getLsbD 2 ∧ t.status.kuc = v.getLsbD 1 ∧
      t.status.iec = v.getLsbD 0) ∧
    (∃ t, exec (.mtc0 rt .cause) s = .next t ∧ SystemResult s t ∧
      t.badVAddr = s.badVAddr ∧ t.status = s.status ∧ t.epc = s.epc ∧
      t.cause = { s.cause with ipSw := v.extractLsb' 8 2 }) ∧
    (∃ t, exec (.mtc0 rt .epc) s = .next t ∧ SystemResult s t ∧
      t.badVAddr = s.badVAddr ∧ t.status = s.status ∧ t.cause = s.cause ∧ t.epc = v) ∧
    (∀ n : BitVec 5, n ∉ [8#5, 12#5, 13#5, 14#5] →
      decode (0b010000#6 ++ 0b00100#5 ++ rt ++ n ++ 0#11) = .ok (.mtc0 rt (.other n)) ∧
      exec (.mtc0 rt (.other n)) s = .refused (.mtc0Undefined n))

/-- R352: `rfe` pops the low four bits of the mode stack, keeps the old pair and `IM`, and goes on at `pc + 4`. -/
def Obligations.ReturnFromException : Prop :=
  ∀ s : State,
    decode 0x42000010#32 = .ok .rfe ∧
    ∃ t, exec .rfe s = .next t ∧ SystemResult s t ∧
      t.badVAddr = s.badVAddr ∧ t.cause = s.cause ∧ t.epc = s.epc ∧ t.status.im = s.status.im ∧
      t.status.kuc = s.status.kup ∧ t.status.iec = s.status.iep ∧
      t.status.kup = s.status.kuo ∧ t.status.iep = s.status.ieo ∧
      t.status.kuo = s.status.kuo ∧ t.status.ieo = s.status.ieo

/-- `60_exceptions.md` R383 with R380, R352: a `syscall`, then in the handler `mfc0 k, $14`, `rfe`, `jr k`, bring back
`pc`, the low four mode bits, `IM`, `hi`, `lo`, memory and every general register but `k`. -/
def Obligations.HandlerReturnRestoresTheContext : Prop :=
  ∀ (code : BitVec 20) (k : Reg) (s : State), k ≠ 0#5 →
    ∃ t₁ t₂ t₃ t₄, exec (.syscall code) s = .next t₁ ∧ exec (.mfc0 k .epc) t₁ = .next t₂ ∧
      exec .rfe t₂ = .next t₃ ∧ exec (.jr k) t₃ = .next t₄ ∧
      t₄.pc = s.pc ∧ OnlyReg s t₄ k s.pc ∧ SameHiLo s t₄ ∧ SameMemory s t₄ ∧
      t₄.status.im = s.status.im ∧ t₄.status.kuc = s.status.kuc ∧ t₄.status.iec = s.status.iec ∧
      t₄.status.kup = s.status.kup ∧ t₄.status.iep = s.status.iep ∧
      t₄.status.kuo = s.status.kup ∧ t₄.status.ieo = s.status.iep

/-! ### Whole-machine rules -/

/-- Every step keeps the invariant: memory stays canonical, `Cause.BD` stays 0, `Cause.ExcCode` stays one of the
codes of R370, and `Cause.IP[7:2]` is the last sample of the external lines. -/
def Obligations.StepKeepsTheInvariant : Prop :=
  ∀ s t : State, s.Inv → step s = .next t → t.Inv

/-- The state after reset satisfies the invariant. It is the launch with the spec's default for every open parameter
of `00_scope.md` R4 (logs 2 to 5, 12); its other values are the model's choices (logs 9 to 11). -/
def Obligations.ResetMeetsTheInvariant : Prop :=
  State.reset.Inv ∧ State.reset.pc = 0x00400000#32 ∧ State.reset.par.endian = .little ∧
  (∀ a : Word, backed State.reset.par a = true) ∧ (∀ n : Nat, extIrqAt State.reset.par n = 0#6) ∧
  State.reset.par.divSigned = .truncate

/-- `10_state.md` R39: what every launch fixes, and that every other register and memory are the launch's own. -/
def Obligations.LaunchState : Prop :=
  ∀ l : Launch,
    (State.launch l).reg 0#5 = 0#32 ∧ (State.launch l).gpr = l.gpr ∧ (State.launch l).pc = l.resetPc ∧
    (State.launch l).hi = l.hi ∧ (State.launch l).lo = l.lo ∧
    (State.launch l).status.modes = 0b000000#6 ∧ (State.launch l).status.im = 0x00#8 ∧
    (State.launch l).cause.excCode = 0#4 ∧ (State.launch l).cause.ipSw = 0b00#2 ∧
    (State.launch l).cause.ipExt = extIrqAt l.par 0 ∧ (State.launch l).cause.bd = 0#1 ∧
    (State.launch l).cause.ce = l.ce ∧ (State.launch l).epc = l.epc ∧
    (State.launch l).badVAddr = l.badVAddr ∧ (State.launch l).mem = l.mem ∧ (State.launch l).stepNo = 0 ∧
    (State.launch l).par = l.par

/-- `10_state.md` R23, the column "writes": an instruction changes no general register but the one the table
gives it. -/
def Obligations.OnlyTheDestinationChanges : Prop :=
  ∀ (i : Instr) (s t : State) (r : Reg), exec i s = .next t → destination i ≠ some r → t.reg r = s.reg r

/-- R23, the column "reads": two states that differ only in general registers the instruction does not read give the
same stop, or next states that differ only in general registers; and the destination receives the same value in
both unless the instruction leaves it alone in both (an exception, or register 0). A free value is the same in both
(the model's choice, log 7). -/
def Obligations.ReadsOnlyTheListedRegisters : Prop :=
  ∀ (i : Instr) (s₁ s₂ : State), s₂ = { s₁ with gpr := s₂.gpr } → (∀ r ∈ sources i, s₁.reg r = s₂.reg r) →
    (∃ t₁ t₂, exec i s₁ = .next t₁ ∧ exec i s₂ = .next t₂ ∧ t₂ = { t₁ with gpr := t₂.gpr } ∧
      ∀ r : Reg, destination i = some r →
        t₁.reg r = t₂.reg r ∨ (t₁.reg r = s₁.reg r ∧ t₂.reg r = s₂.reg r)) ∨
    (∃ x, exec i s₁ = .refused x ∧ exec i s₂ = .refused x)

/-- `20_memory.md` R60, R67, R69: memory changes only by the stores, and only at the addresses the store's width
and effective address give. -/
def Obligations.MemoryChangesOnlyByStores : Prop :=
  ∀ (s t : State) (x : Word), step s = .next t → t.byteAt x ≠ s.byteAt x →
    ∃ i a n, s.poll.select = .ok i ∧ storeSpan i s.poll = some (a, n) ∧ ∃ k < n, x = a + BitVec.ofNat 32 k

/-- `10_state.md` R27: `hi` and `lo` are written only by `mult multu div divu mthi mtlo`; no other instruction and no
exception entry changes them. -/
def Obligations.HiLoChangeOnlyBySixInstructions : Prop :=
  ∀ s t : State, step s = .next t → ¬SameHiLo s t →
    ∃ i : Instr, s.poll.select = .ok i ∧ i.mnemonic ∈ ["mult", "multu", "div", "divu", "mthi", "mtlo"]

/-- `10_state.md` R30, the column "written by": who may change each coprocessor-0 register. In a step that changes
`BadVAddr`, an address-error exception was taken (R31). The sampled lines `IP[7:2]` are changed by every step. -/
def Obligations.SystemRegisterWriters : Prop :=
  ∀ s t : State, step s = .next t →
    (t.badVAddr ≠ s.badVAddr →
      EntersException s.poll t 4#4 (some t.badVAddr) ∨ EntersException s.poll t 5#4 (some t.badVAddr)) ∧
    (t.status ≠ s.status →
      (∃ c b, EntersException s.poll t c b) ∨ s.poll.select = .ok .rfe ∨
        ∃ rt, s.poll.select = .ok (.mtc0 rt .status)) ∧
    (t.cause ≠ s.poll.cause →
      (∃ c b, EntersException s.poll t c b) ∨ ∃ rt, s.poll.select = .ok (.mtc0 rt .cause)) ∧
    (t.epc ≠ s.epc →
      (∃ c b, EntersException s.poll t c b) ∨ ∃ rt, s.poll.select = .ok (.mtc0 rt .epc)) ∧
    t.par = s.par ∧ t.stepNo = s.stepNo + 1

/-- `60_exceptions.md` R395: the three mode bits `KU` have no effect on execution. Two states that differ in nothing
else take steps that differ in nothing else, but for the register an `mfc0` of `Status` writes. A free value is the
same in both (the model's choice, log 7). -/
def Obligations.ModeBitsHaveNoEffect : Prop :=
  ∀ (s₁ s₂ : State), s₂ = { s₁ with status := s₂.status } → s₁.status.im = s₂.status.im →
    s₁.status.iec = s₂.status.iec → s₁.status.iep = s₂.status.iep → s₁.status.ieo = s₂.status.ieo →
    (∃ t₁ t₂, step s₁ = .next t₁ ∧ step s₂ = .next t₂ ∧
      t₂ = { t₁ with status := t₂.status, gpr := t₂.gpr } ∧ t₁.status.im = t₂.status.im ∧
      t₁.status.iec = t₂.status.iec ∧ t₁.status.iep = t₂.status.iep ∧ t₁.status.ieo = t₂.status.ieo ∧
      ∀ r : Reg, t₁.reg r = t₂.reg r ∨ s₁.poll.select = .ok (.mfc0 r .status)) ∨
    (∃ x, step s₁ = .refused x ∧ step s₂ = .refused x)

/-! ### Pseudo-instructions -/

/-- `44_comparison.md` R234 to R241: each expansion writes 1 or 0 to `rdest` and changes no other register. -/
def Obligations.PseudoComparisons : Prop :=
  ∀ (d a b : Reg) (s : State), d ≠ 1#5 → a ≠ 1#5 → b ≠ 1#5 →
    ∀ pc ∈ [(Pseudo.seq d a b, decide (s.reg a = s.reg b)),
        (Pseudo.sge d a b, decide ((s.reg a).toInt ≥ (s.reg b).toInt)),
        (Pseudo.sgeu d a b, decide ((s.reg a).toNat ≥ (s.reg b).toNat)),
        (Pseudo.sgt d a b, decide ((s.reg a).toInt > (s.reg b).toInt)),
        (Pseudo.sgtu d a b, decide ((s.reg a).toNat > (s.reg b).toNat)),
        (Pseudo.sle d a b, decide ((s.reg a).toInt ≤ (s.reg b).toInt)),
        (Pseudo.sleu d a b, decide ((s.reg a).toNat ≤ (s.reg b).toNat)),
        (Pseudo.sne d a b, decide (s.reg a ≠ s.reg b))],
      ∃ code t, expand s.pc pc.1 = some code ∧ runBlock s.pc code code.length s = .next t ∧
        OnlyReg s t d (if pc.2 then 1#32 else 0#32) ∧
        t.pc = s.pc + BitVec.ofNat 32 (4 * code.length) ∧ SameHiLo s t ∧ SameMemory s t ∧ SameSystem s t

/-- `45_branch_jump.md` R267 to R277, `30_encoding.md` R128: each expansion continues at the label when its relation
holds and after its last instruction otherwise; it changes no register but `$at`. The `src2` of `bgt`, `bgtu`,
`ble`, `bleu` is a register or an immediate. -/
def Obligations.PseudoBranches : Prop :=
  ∀ (a b : Reg) (c : Src2) (label : Word) (s : State), a ≠ 1#5 → b ≠ 1#5 → c ≠ .reg 1#5 →
    ∀ pc ∈ [(Pseudo.b label, true),
        (Pseudo.beqz a label, decide (s.reg a = 0#32)),
        (Pseudo.bge a b label, decide ((s.reg a).toInt ≥ (s.reg b).toInt)),
        (Pseudo.bgeu a b label, decide ((s.reg a).toNat ≥ (s.reg b).toNat)),
        (Pseudo.bgt a c label, decide ((s.reg a).toInt > (src2Value s c).toInt)),
        (Pseudo.bgtu a c label, decide ((s.reg a).toNat > (src2Value s c).toNat)),
        (Pseudo.ble a c label, decide ((s.reg a).toInt ≤ (src2Value s c).toInt)),
        (Pseudo.bleu a c label, decide ((s.reg a).toNat ≤ (src2Value s c).toNat)),
        (Pseudo.blt a b label, decide ((s.reg a).toInt < (s.reg b).toInt)),
        (Pseudo.bltu a b label, decide ((s.reg a).toNat < (s.reg b).toNat)),
        (Pseudo.bnez a label, decide (s.reg a ≠ 0#32))],
      ∀ code, expand s.pc pc.1 = some code →
        ∃ t, runBlock s.pc code code.length s = .next t ∧
          t.pc = (if pc.2 then label else s.pc + BitVec.ofNat 32 (4 * code.length)) ∧
          (∀ r : Reg, r ≠ 1#5 → t.reg r = s.reg r) ∧ SameHiLo s t ∧ SameMemory s t ∧ SameSystem s t

/-- `40_arithmetic.md` R150, R156, R157, `42_logical.md` R207, `48_data_movement.md` R344: the one-operand
pseudo-instructions, with their whole frame. `abs` and `neg` of 0x80000000 raise `Ov`, `abs` from its third
instruction, after it has copied its operand. -/
def Obligations.PseudoOneOperand : Prop :=
  ∀ (d a : Reg) (s : State), d ≠ 1#5 → a ≠ 1#5 →
    (∃ code t, expand s.pc (.abs d a) = some code ∧ runBlock s.pc code code.length s = .next t ∧
      (s.reg a ≠ 0x80000000#32 → OnlyReg s t d (BitVec.ofNat 32 (s.reg a).toInt.natAbs) ∧ t.pc = s.pc + 12#32 ∧
        SameHiLo s t ∧ SameMemory s t ∧ SameSystem s t) ∧
      (s.reg a = 0x80000000#32 →
        ∃ m, OnlyReg s m d 0x80000000#32 ∧ m.pc = s.pc + 8#32 ∧ SameHiLo s m ∧ SameMemory s m ∧ SameSystem s m ∧
          EntersException m t 12#4 none)) ∧
    (∃ code t, expand s.pc (.neg d a) = some code ∧ runBlock s.pc code code.length s = .next t ∧
      (s.reg a ≠ 0x80000000#32 → RegResult s t d (BitVec.ofInt 32 (-(s.reg a).toInt))) ∧
      (s.reg a = 0x80000000#32 → EntersException s t 12#4 none)) ∧
    (∃ code t, expand s.pc (.negu d a) = some code ∧ runBlock s.pc code code.length s = .next t ∧
      RegResult s t d (0#32 - s.reg a)) ∧
    (∃ code t, expand s.pc (.not d a) = some code ∧ runBlock s.pc code code.length s = .next t ∧
      RegResult s t d (~~~(s.reg a))) ∧
    (∃ code t, expand s.pc (.move d a) = some code ∧ runBlock s.pc code code.length s = .next t ∧
      RegResult s t d (s.reg a))

/-- `40_arithmetic.md` R151 to R153, R158, R159, `30_encoding.md` R128: `rdest` receives the quotient, the low half of
the product or the remainder that the machine instruction leaves in `lo` or `hi` for the same two values. The `src2`
of `div`, `divu`, `mul` is a register or an immediate, and an immediate stays in `$at`. A free value is the same for
the same operands (the model's choice, log 7). -/
def Obligations.PseudoMultiplyDivide : Prop :=
  ∀ (d a b : Reg) (c : Src2) (s s₁ t : State), d ≠ 1#5 → a ≠ 1#5 → b ≠ 1#5 → c ≠ .reg 1#5 →
    s₁.par = s.par → s₁.draws = s.draws → s₁.reg a = s.reg a →
    (s₁.reg b = src2Value s c → exec (.div a b) s₁ = .next t →
      ∃ code u, expand s.pc (.div d a c) = some code ∧ runBlock s.pc code code.length s = .next u ∧
        OnlyReg (withSrc2 s c) u d t.lo ∧ u.hi = t.hi ∧ u.lo = t.lo ∧
        u.pc = s.pc + BitVec.ofNat 32 (4 * (2 + src2Size c)) ∧ SameMemory s u ∧ SameSystem s u) ∧
    (s₁.reg b = src2Value s c → exec (.divu a b) s₁ = .next t →
      ∃ code u, expand s.pc (.divu d a c) = some code ∧ runBlock s.pc code code.length s = .next u ∧
        OnlyReg (withSrc2 s c) u d t.lo ∧ u.hi = t.hi ∧ u.lo = t.lo ∧
        u.pc = s.pc + BitVec.ofNat 32 (4 * (2 + src2Size c)) ∧ SameMemory s u ∧ SameSystem s u) ∧
    (s₁.reg b = src2Value s c → exec (.mult a b) s₁ = .next t →
      ∃ code u, expand s.pc (.mul d a c) = some code ∧ runBlock s.pc code code.length s = .next u ∧
        OnlyReg (withSrc2 s c) u d (s.reg a * src2Value s c) ∧ u.hi = t.hi ∧ u.lo = t.lo ∧
        u.pc = s.pc + BitVec.ofNat 32 (4 * (2 + src2Size c)) ∧ SameMemory s u ∧ SameSystem s u) ∧
    (s₁.reg b = s.reg b → exec (.div a b) s₁ = .next t →
      ∃ code u, expand s.pc (.rem d a b) = some code ∧ runBlock s.pc code code.length s = .next u ∧
        OnlyReg s u d t.hi ∧ u.hi = t.hi ∧ u.lo = t.lo ∧ u.pc = s.pc + 8#32 ∧ SameMemory s u ∧ SameSystem s u) ∧
    (s₁.reg b = s.reg b → exec (.divu a b) s₁ = .next t →
      ∃ code u, expand s.pc (.remu d a b) = some code ∧ runBlock s.pc code code.length s = .next u ∧
        OnlyReg s u d t.hi ∧ u.hi = t.hi ∧ u.lo = t.lo ∧ u.pc = s.pc + 8#32 ∧ SameMemory s u ∧ SameSystem s u)

/-- `40_arithmetic.md` R154, R155, `30_encoding.md` R128, with a register or an immediate for `src2`: the low 32 bits of
the product when it fits, and `Ov` from inside the expansion when it does not. `mulo` then leaves the sign smear in
`rdest`, `mulou` leaves `rdest` unchanged. Either way at most all instructions but one execute. -/
def Obligations.PseudoMultiplyWithOverflow : Prop :=
  ∀ (d a : Reg) (c : Src2) (s : State), d ≠ 0#5 → d ≠ 1#5 → a ≠ 1#5 → c ≠ .reg 1#5 →
    (∃ code t, expand s.pc (.mulo d a c) = some code ∧ runBlock s.pc code (code.length - 1) s = .next t ∧
      (∀ r : Reg, r ≠ d → r ≠ 1#5 → t.reg r = s.reg r) ∧ SameMemory s t ∧
      (∀ p : Int, p = (s.reg a).toInt * (src2Value s c).toInt → (t.hi ++ t.lo).toInt = p ∧
        (-2 ^ 31 ≤ p → p < 2 ^ 31 → t.reg d = BitVec.ofInt 32 p ∧
          t.pc = s.pc + BitVec.ofNat 32 (4 * (8 + src2Size c)) ∧ SameSystem s t) ∧
        (p < -2 ^ 31 ∨ 2 ^ 31 ≤ p → (t.reg d = 0x00000000#32 ∨ t.reg d = 0xFFFFFFFF#32) ∧
          ∃ m, m.pc = s.pc + BitVec.ofNat 32 (4 * (6 + src2Size c)) ∧ SameSystem s m ∧
            EntersException m t 12#4 none))) ∧
    (∃ code t, expand s.pc (.mulou d a c) = some code ∧ runBlock s.pc code (code.length - 1) s = .next t ∧
      (∀ r : Reg, r ≠ d → r ≠ 1#5 → t.reg r = s.reg r) ∧ SameMemory s t ∧
      (∀ p : Nat, p = (s.reg a).toNat * (src2Value s c).toNat → (t.hi ++ t.lo).toNat = p ∧
        (p < 2 ^ 32 → t.reg d = BitVec.ofNat 32 p ∧
          t.pc = s.pc + BitVec.ofNat 32 (4 * (6 + src2Size c)) ∧ SameSystem s t) ∧
        (2 ^ 32 ≤ p → t.reg d = s.reg d ∧
          ∃ m, m.pc = s.pc + BitVec.ofNat 32 (4 * (4 + src2Size c)) ∧ SameSystem s m ∧
            EntersException m t 12#4 none)))

/-- `41_shift_rotate.md` R186, R187, `43_constant.md` R221, `47_load.md` R317: the rotations and the loading of a
constant or an address; `$at` may be overwritten. -/
def Obligations.PseudoRotateAndConstant : Prop :=
  ∀ (d a b : Reg) (v : Word) (s : State), d ≠ 1#5 → a ≠ 1#5 → b ≠ 1#5 →
    ∀ pv ∈ [(Pseudo.rol d a b, (s.reg a).rotateLeft ((s.reg b).toNat % 32)),
        (Pseudo.ror d a b, (s.reg a).rotateRight ((s.reg b).toNat % 32)),
        (Pseudo.li d v, v), (Pseudo.la d v, v)],
      ∃ code t, expand s.pc pv.1 = some code ∧ runBlock s.pc code code.length s = .next t ∧
        (d ≠ 0#5 → t.reg d = pv.2) ∧ (∀ r : Reg, r ≠ d → r ≠ 1#5 → t.reg r = s.reg r) ∧
        t.pc = s.pc + BitVec.ofNat 32 (4 * code.length) ∧ SameHiLo s t ∧ SameMemory s t ∧ SameSystem s t
end

