-- ==== Sys2Proof/Laws/State.lean ====
section
/-! SUPPORT. What every update of a `State` leaves in every field, one lemma each, all by computation; later
proofs cite these and unfold no update. -/

namespace Sys2Proof.Machine

/-! ### `setReg` -/

@[simp] theorem State.setReg_pc (s : State) (r : Reg) (v : Word) : (s.setReg r v).pc = s.pc := rfl
@[simp] theorem State.setReg_hi (s : State) (r : Reg) (v : Word) : (s.setReg r v).hi = s.hi := rfl
@[simp] theorem State.setReg_lo (s : State) (r : Reg) (v : Word) : (s.setReg r v).lo = s.lo := rfl
@[simp] theorem State.setReg_badVAddr (s : State) (r : Reg) (v : Word) : (s.setReg r v).badVAddr = s.badVAddr := rfl
@[simp] theorem State.setReg_status (s : State) (r : Reg) (v : Word) : (s.setReg r v).status = s.status := rfl
@[simp] theorem State.setReg_cause (s : State) (r : Reg) (v : Word) : (s.setReg r v).cause = s.cause := rfl
@[simp] theorem State.setReg_epc (s : State) (r : Reg) (v : Word) : (s.setReg r v).epc = s.epc := rfl
@[simp] theorem State.setReg_mem (s : State) (r : Reg) (v : Word) : (s.setReg r v).mem = s.mem := rfl
@[simp] theorem State.setReg_stepNo (s : State) (r : Reg) (v : Word) : (s.setReg r v).stepNo = s.stepNo := rfl
@[simp] theorem State.setReg_draws (s : State) (r : Reg) (v : Word) : (s.setReg r v).draws = s.draws := rfl
@[simp] theorem State.setReg_par (s : State) (r : Reg) (v : Word) : (s.setReg r v).par = s.par := rfl
@[simp] theorem State.setReg_byteAt (s : State) (r : Reg) (v : Word) (x : Word) : (s.setReg r v).byteAt x = s.byteAt x := rfl

/-! ### `setPc` -/

@[simp] theorem State.setPc_gpr (s : State) (v : Word) : (s.setPc v).gpr = s.gpr := rfl
@[simp] theorem State.setPc_pc (s : State) (v : Word) : (s.setPc v).pc = v := rfl
@[simp] theorem State.setPc_hi (s : State) (v : Word) : (s.setPc v).hi = s.hi := rfl
@[simp] theorem State.setPc_lo (s : State) (v : Word) : (s.setPc v).lo = s.lo := rfl
@[simp] theorem State.setPc_badVAddr (s : State) (v : Word) : (s.setPc v).badVAddr = s.badVAddr := rfl
@[simp] theorem State.setPc_status (s : State) (v : Word) : (s.setPc v).status = s.status := rfl
@[simp] theorem State.setPc_cause (s : State) (v : Word) : (s.setPc v).cause = s.cause := rfl
@[simp] theorem State.setPc_epc (s : State) (v : Word) : (s.setPc v).epc = s.epc := rfl
@[simp] theorem State.setPc_mem (s : State) (v : Word) : (s.setPc v).mem = s.mem := rfl
@[simp] theorem State.setPc_stepNo (s : State) (v : Word) : (s.setPc v).stepNo = s.stepNo := rfl
@[simp] theorem State.setPc_draws (s : State) (v : Word) : (s.setPc v).draws = s.draws := rfl
@[simp] theorem State.setPc_par (s : State) (v : Word) : (s.setPc v).par = s.par := rfl
@[simp] theorem State.setPc_reg (s : State) (v : Word) (q : Reg) : (s.setPc v).reg q = s.reg q := rfl
@[simp] theorem State.setPc_byteAt (s : State) (v : Word) (x : Word) : (s.setPc v).byteAt x = s.byteAt x := rfl

/-! ### `advance` -/

@[simp] theorem State.advance_gpr (s : State) : (s.advance).gpr = s.gpr := rfl
@[simp] theorem State.advance_pc (s : State) : (s.advance).pc = s.pc + 4#32 := rfl
@[simp] theorem State.advance_hi (s : State) : (s.advance).hi = s.hi := rfl
@[simp] theorem State.advance_lo (s : State) : (s.advance).lo = s.lo := rfl
@[simp] theorem State.advance_badVAddr (s : State) : (s.advance).badVAddr = s.badVAddr := rfl
@[simp] theorem State.advance_status (s : State) : (s.advance).status = s.status := rfl
@[simp] theorem State.advance_cause (s : State) : (s.advance).cause = s.cause := rfl
@[simp] theorem State.advance_epc (s : State) : (s.advance).epc = s.epc := rfl
@[simp] theorem State.advance_mem (s : State) : (s.advance).mem = s.mem := rfl
@[simp] theorem State.advance_stepNo (s : State) : (s.advance).stepNo = s.stepNo := rfl
@[simp] theorem State.advance_draws (s : State) : (s.advance).draws = s.draws := rfl
@[simp] theorem State.advance_par (s : State) : (s.advance).par = s.par := rfl
@[simp] theorem State.advance_reg (s : State) (q : Reg) : (s.advance).reg q = s.reg q := rfl
@[simp] theorem State.advance_byteAt (s : State) (x : Word) : (s.advance).byteAt x = s.byteAt x := rfl

/-! ### `setHiLo` -/

@[simp] theorem State.setHiLo_gpr (s : State) (h l : Word) : (s.setHiLo h l).gpr = s.gpr := rfl
@[simp] theorem State.setHiLo_pc (s : State) (h l : Word) : (s.setHiLo h l).pc = s.pc := rfl
@[simp] theorem State.setHiLo_hi (s : State) (h l : Word) : (s.setHiLo h l).hi = h := rfl
@[simp] theorem State.setHiLo_lo (s : State) (h l : Word) : (s.setHiLo h l).lo = l := rfl
@[simp] theorem State.setHiLo_badVAddr (s : State) (h l : Word) : (s.setHiLo h l).badVAddr = s.badVAddr := rfl
@[simp] theorem State.setHiLo_status (s : State) (h l : Word) : (s.setHiLo h l).status = s.status := rfl
@[simp] theorem State.setHiLo_cause (s : State) (h l : Word) : (s.setHiLo h l).cause = s.cause := rfl
@[simp] theorem State.setHiLo_epc (s : State) (h l : Word) : (s.setHiLo h l).epc = s.epc := rfl
@[simp] theorem State.setHiLo_mem (s : State) (h l : Word) : (s.setHiLo h l).mem = s.mem := rfl
@[simp] theorem State.setHiLo_stepNo (s : State) (h l : Word) : (s.setHiLo h l).stepNo = s.stepNo := rfl
@[simp] theorem State.setHiLo_draws (s : State) (h l : Word) : (s.setHiLo h l).draws = s.draws := rfl
@[simp] theorem State.setHiLo_par (s : State) (h l : Word) : (s.setHiLo h l).par = s.par := rfl
@[simp] theorem State.setHiLo_reg (s : State) (h l : Word) (q : Reg) : (s.setHiLo h l).reg q = s.reg q := rfl
@[simp] theorem State.setHiLo_byteAt (s : State) (h l : Word) (x : Word) : (s.setHiLo h l).byteAt x = s.byteAt x := rfl

/-! ### `setStatus` -/

@[simp] theorem State.setStatus_gpr (s : State) (st : Status) : (s.setStatus st).gpr = s.gpr := rfl
@[simp] theorem State.setStatus_pc (s : State) (st : Status) : (s.setStatus st).pc = s.pc := rfl
@[simp] theorem State.setStatus_hi (s : State) (st : Status) : (s.setStatus st).hi = s.hi := rfl
@[simp] theorem State.setStatus_lo (s : State) (st : Status) : (s.setStatus st).lo = s.lo := rfl
@[simp] theorem State.setStatus_badVAddr (s : State) (st : Status) : (s.setStatus st).badVAddr = s.badVAddr := rfl
@[simp] theorem State.setStatus_status (s : State) (st : Status) : (s.setStatus st).status = st := rfl
@[simp] theorem State.setStatus_cause (s : State) (st : Status) : (s.setStatus st).cause = s.cause := rfl
@[simp] theorem State.setStatus_epc (s : State) (st : Status) : (s.setStatus st).epc = s.epc := rfl
@[simp] theorem State.setStatus_mem (s : State) (st : Status) : (s.setStatus st).mem = s.mem := rfl
@[simp] theorem State.setStatus_stepNo (s : State) (st : Status) : (s.setStatus st).stepNo = s.stepNo := rfl
@[simp] theorem State.setStatus_draws (s : State) (st : Status) : (s.setStatus st).draws = s.draws := rfl
@[simp] theorem State.setStatus_par (s : State) (st : Status) : (s.setStatus st).par = s.par := rfl
@[simp] theorem State.setStatus_reg (s : State) (st : Status) (q : Reg) : (s.setStatus st).reg q = s.reg q := rfl
@[simp] theorem State.setStatus_byteAt (s : State) (st : Status) (x : Word) : (s.setStatus st).byteAt x = s.byteAt x := rfl

/-! ### `setCause` -/

@[simp] theorem State.setCause_gpr (s : State) (c : Cause) : (s.setCause c).gpr = s.gpr := rfl
@[simp] theorem State.setCause_pc (s : State) (c : Cause) : (s.setCause c).pc = s.pc := rfl
@[simp] theorem State.setCause_hi (s : State) (c : Cause) : (s.setCause c).hi = s.hi := rfl
@[simp] theorem State.setCause_lo (s : State) (c : Cause) : (s.setCause c).lo = s.lo := rfl
@[simp] theorem State.setCause_badVAddr (s : State) (c : Cause) : (s.setCause c).badVAddr = s.badVAddr := rfl
@[simp] theorem State.setCause_status (s : State) (c : Cause) : (s.setCause c).status = s.status := rfl
@[simp] theorem State.setCause_cause (s : State) (c : Cause) : (s.setCause c).cause = c := rfl
@[simp] theorem State.setCause_epc (s : State) (c : Cause) : (s.setCause c).epc = s.epc := rfl
@[simp] theorem State.setCause_mem (s : State) (c : Cause) : (s.setCause c).mem = s.mem := rfl
@[simp] theorem State.setCause_stepNo (s : State) (c : Cause) : (s.setCause c).stepNo = s.stepNo := rfl
@[simp] theorem State.setCause_draws (s : State) (c : Cause) : (s.setCause c).draws = s.draws := rfl
@[simp] theorem State.setCause_par (s : State) (c : Cause) : (s.setCause c).par = s.par := rfl
@[simp] theorem State.setCause_reg (s : State) (c : Cause) (q : Reg) : (s.setCause c).reg q = s.reg q := rfl
@[simp] theorem State.setCause_byteAt (s : State) (c : Cause) (x : Word) : (s.setCause c).byteAt x = s.byteAt x := rfl

/-! ### `setEpc` -/

@[simp] theorem State.setEpc_gpr (s : State) (v : Word) : (s.setEpc v).gpr = s.gpr := rfl
@[simp] theorem State.setEpc_pc (s : State) (v : Word) : (s.setEpc v).pc = s.pc := rfl
@[simp] theorem State.setEpc_hi (s : State) (v : Word) : (s.setEpc v).hi = s.hi := rfl
@[simp] theorem State.setEpc_lo (s : State) (v : Word) : (s.setEpc v).lo = s.lo := rfl
@[simp] theorem State.setEpc_badVAddr (s : State) (v : Word) : (s.setEpc v).badVAddr = s.badVAddr := rfl
@[simp] theorem State.setEpc_status (s : State) (v : Word) : (s.setEpc v).status = s.status := rfl
@[simp] theorem State.setEpc_cause (s : State) (v : Word) : (s.setEpc v).cause = s.cause := rfl
@[simp] theorem State.setEpc_epc (s : State) (v : Word) : (s.setEpc v).epc = v := rfl
@[simp] theorem State.setEpc_mem (s : State) (v : Word) : (s.setEpc v).mem = s.mem := rfl
@[simp] theorem State.setEpc_stepNo (s : State) (v : Word) : (s.setEpc v).stepNo = s.stepNo := rfl
@[simp] theorem State.setEpc_draws (s : State) (v : Word) : (s.setEpc v).draws = s.draws := rfl
@[simp] theorem State.setEpc_par (s : State) (v : Word) : (s.setEpc v).par = s.par := rfl
@[simp] theorem State.setEpc_reg (s : State) (v : Word) (q : Reg) : (s.setEpc v).reg q = s.reg q := rfl
@[simp] theorem State.setEpc_byteAt (s : State) (v : Word) (x : Word) : (s.setEpc v).byteAt x = s.byteAt x := rfl

/-! ### `drew` -/

@[simp] theorem State.drew_gpr (s : State) (k : Nat) : (s.drew k).gpr = s.gpr := rfl
@[simp] theorem State.drew_pc (s : State) (k : Nat) : (s.drew k).pc = s.pc := rfl
@[simp] theorem State.drew_hi (s : State) (k : Nat) : (s.drew k).hi = s.hi := rfl
@[simp] theorem State.drew_lo (s : State) (k : Nat) : (s.drew k).lo = s.lo := rfl
@[simp] theorem State.drew_badVAddr (s : State) (k : Nat) : (s.drew k).badVAddr = s.badVAddr := rfl
@[simp] theorem State.drew_status (s : State) (k : Nat) : (s.drew k).status = s.status := rfl
@[simp] theorem State.drew_cause (s : State) (k : Nat) : (s.drew k).cause = s.cause := rfl
@[simp] theorem State.drew_epc (s : State) (k : Nat) : (s.drew k).epc = s.epc := rfl
@[simp] theorem State.drew_mem (s : State) (k : Nat) : (s.drew k).mem = s.mem := rfl
@[simp] theorem State.drew_stepNo (s : State) (k : Nat) : (s.drew k).stepNo = s.stepNo := rfl
@[simp] theorem State.drew_draws (s : State) (k : Nat) : (s.drew k).draws = s.draws + k := rfl
@[simp] theorem State.drew_par (s : State) (k : Nat) : (s.drew k).par = s.par := rfl
@[simp] theorem State.drew_reg (s : State) (k : Nat) (q : Reg) : (s.drew k).reg q = s.reg q := rfl
@[simp] theorem State.drew_byteAt (s : State) (k : Nat) (x : Word) : (s.drew k).byteAt x = s.byteAt x := rfl

/-! ### `setByte` -/

@[simp] theorem State.setByte_gpr (s : State) (a : Word) (b : Byte) : (s.setByte a b).gpr = s.gpr := rfl
@[simp] theorem State.setByte_pc (s : State) (a : Word) (b : Byte) : (s.setByte a b).pc = s.pc := rfl
@[simp] theorem State.setByte_hi (s : State) (a : Word) (b : Byte) : (s.setByte a b).hi = s.hi := rfl
@[simp] theorem State.setByte_lo (s : State) (a : Word) (b : Byte) : (s.setByte a b).lo = s.lo := rfl
@[simp] theorem State.setByte_badVAddr (s : State) (a : Word) (b : Byte) : (s.setByte a b).badVAddr = s.badVAddr := rfl
@[simp] theorem State.setByte_status (s : State) (a : Word) (b : Byte) : (s.setByte a b).status = s.status := rfl
@[simp] theorem State.setByte_cause (s : State) (a : Word) (b : Byte) : (s.setByte a b).cause = s.cause := rfl
@[simp] theorem State.setByte_epc (s : State) (a : Word) (b : Byte) : (s.setByte a b).epc = s.epc := rfl
@[simp] theorem State.setByte_mem (s : State) (a : Word) (b : Byte) : (s.setByte a b).mem = Memory.writeByte s.mem a.toNat b := rfl
@[simp] theorem State.setByte_stepNo (s : State) (a : Word) (b : Byte) : (s.setByte a b).stepNo = s.stepNo := rfl
@[simp] theorem State.setByte_draws (s : State) (a : Word) (b : Byte) : (s.setByte a b).draws = s.draws := rfl
@[simp] theorem State.setByte_par (s : State) (a : Word) (b : Byte) : (s.setByte a b).par = s.par := rfl
@[simp] theorem State.setByte_reg (s : State) (a : Word) (b : Byte) (q : Reg) : (s.setByte a b).reg q = s.reg q := rfl

/-! ### `setHalf` -/

@[simp] theorem State.setHalf_gpr (s : State) (a v : Word) : (s.setHalf a v).gpr = s.gpr := rfl
@[simp] theorem State.setHalf_pc (s : State) (a v : Word) : (s.setHalf a v).pc = s.pc := rfl
@[simp] theorem State.setHalf_hi (s : State) (a v : Word) : (s.setHalf a v).hi = s.hi := rfl
@[simp] theorem State.setHalf_lo (s : State) (a v : Word) : (s.setHalf a v).lo = s.lo := rfl
@[simp] theorem State.setHalf_badVAddr (s : State) (a v : Word) : (s.setHalf a v).badVAddr = s.badVAddr := rfl
@[simp] theorem State.setHalf_status (s : State) (a v : Word) : (s.setHalf a v).status = s.status := rfl
@[simp] theorem State.setHalf_cause (s : State) (a v : Word) : (s.setHalf a v).cause = s.cause := rfl
@[simp] theorem State.setHalf_epc (s : State) (a v : Word) : (s.setHalf a v).epc = s.epc := rfl
@[simp] theorem State.setHalf_stepNo (s : State) (a v : Word) : (s.setHalf a v).stepNo = s.stepNo := rfl
@[simp] theorem State.setHalf_draws (s : State) (a v : Word) : (s.setHalf a v).draws = s.draws := rfl
@[simp] theorem State.setHalf_par (s : State) (a v : Word) : (s.setHalf a v).par = s.par := rfl
@[simp] theorem State.setHalf_reg (s : State) (a v : Word) (q : Reg) : (s.setHalf a v).reg q = s.reg q := rfl

/-! ### `setWord` -/

@[simp] theorem State.setWord_gpr (s : State) (a v : Word) : (s.setWord a v).gpr = s.gpr := rfl
@[simp] theorem State.setWord_pc (s : State) (a v : Word) : (s.setWord a v).pc = s.pc := rfl
@[simp] theorem State.setWord_hi (s : State) (a v : Word) : (s.setWord a v).hi = s.hi := rfl
@[simp] theorem State.setWord_lo (s : State) (a v : Word) : (s.setWord a v).lo = s.lo := rfl
@[simp] theorem State.setWord_badVAddr (s : State) (a v : Word) : (s.setWord a v).badVAddr = s.badVAddr := rfl
@[simp] theorem State.setWord_status (s : State) (a v : Word) : (s.setWord a v).status = s.status := rfl
@[simp] theorem State.setWord_cause (s : State) (a v : Word) : (s.setWord a v).cause = s.cause := rfl
@[simp] theorem State.setWord_epc (s : State) (a v : Word) : (s.setWord a v).epc = s.epc := rfl
@[simp] theorem State.setWord_stepNo (s : State) (a v : Word) : (s.setWord a v).stepNo = s.stepNo := rfl
@[simp] theorem State.setWord_draws (s : State) (a v : Word) : (s.setWord a v).draws = s.draws := rfl
@[simp] theorem State.setWord_par (s : State) (a v : Word) : (s.setWord a v).par = s.par := rfl
@[simp] theorem State.setWord_reg (s : State) (a v : Word) (q : Reg) : (s.setWord a v).reg q = s.reg q := rfl

/-! ### `returnFromException` -/

@[simp] theorem State.returnFromException_gpr (s : State) : (s.returnFromException).gpr = s.gpr := rfl
@[simp] theorem State.returnFromException_pc (s : State) : (s.returnFromException).pc = s.pc := rfl
@[simp] theorem State.returnFromException_hi (s : State) : (s.returnFromException).hi = s.hi := rfl
@[simp] theorem State.returnFromException_lo (s : State) : (s.returnFromException).lo = s.lo := rfl
@[simp] theorem State.returnFromException_badVAddr (s : State) : (s.returnFromException).badVAddr = s.badVAddr := rfl
@[simp] theorem State.returnFromException_status (s : State) : (s.returnFromException).status = s.status.pop := rfl
@[simp] theorem State.returnFromException_cause (s : State) : (s.returnFromException).cause = s.cause := rfl
@[simp] theorem State.returnFromException_epc (s : State) : (s.returnFromException).epc = s.epc := rfl
@[simp] theorem State.returnFromException_mem (s : State) : (s.returnFromException).mem = s.mem := rfl
@[simp] theorem State.returnFromException_stepNo (s : State) : (s.returnFromException).stepNo = s.stepNo := rfl
@[simp] theorem State.returnFromException_draws (s : State) : (s.returnFromException).draws = s.draws := rfl
@[simp] theorem State.returnFromException_par (s : State) : (s.returnFromException).par = s.par := rfl
@[simp] theorem State.returnFromException_reg (s : State) (q : Reg) : (s.returnFromException).reg q = s.reg q := rfl
@[simp] theorem State.returnFromException_byteAt (s : State) (x : Word) : (s.returnFromException).byteAt x = s.byteAt x := rfl

/-! ### `raise` -/

@[simp] theorem State.raise_gpr (s : State) (e : Exc) : (s.raise e).gpr = s.gpr := rfl
@[simp] theorem State.raise_pc (s : State) (e : Exc) : (s.raise e).pc = excVector := rfl
@[simp] theorem State.raise_hi (s : State) (e : Exc) : (s.raise e).hi = s.hi := rfl
@[simp] theorem State.raise_lo (s : State) (e : Exc) : (s.raise e).lo = s.lo := rfl
@[simp] theorem State.raise_badVAddr (s : State) (e : Exc) : (s.raise e).badVAddr = e.badAddr.getD s.badVAddr := rfl
@[simp] theorem State.raise_status (s : State) (e : Exc) : (s.raise e).status = s.status.push := rfl
@[simp] theorem State.raise_cause (s : State) (e : Exc) : (s.raise e).cause = { s.cause with excCode := e.code, bd := 0#1, ce := 0#2 } := rfl
@[simp] theorem State.raise_epc (s : State) (e : Exc) : (s.raise e).epc = s.pc := rfl
@[simp] theorem State.raise_mem (s : State) (e : Exc) : (s.raise e).mem = s.mem := rfl
@[simp] theorem State.raise_stepNo (s : State) (e : Exc) : (s.raise e).stepNo = s.stepNo := rfl
@[simp] theorem State.raise_draws (s : State) (e : Exc) : (s.raise e).draws = s.draws := rfl
@[simp] theorem State.raise_par (s : State) (e : Exc) : (s.raise e).par = s.par := rfl
@[simp] theorem State.raise_reg (s : State) (e : Exc) (q : Reg) : (s.raise e).reg q = s.reg q := rfl
@[simp] theorem State.raise_byteAt (s : State) (e : Exc) (x : Word) : (s.raise e).byteAt x = s.byteAt x := rfl

/-! ### `poll` -/

@[simp] theorem State.poll_gpr (s : State) : (s.poll).gpr = s.gpr := rfl
@[simp] theorem State.poll_pc (s : State) : (s.poll).pc = s.pc := rfl
@[simp] theorem State.poll_hi (s : State) : (s.poll).hi = s.hi := rfl
@[simp] theorem State.poll_lo (s : State) : (s.poll).lo = s.lo := rfl
@[simp] theorem State.poll_badVAddr (s : State) : (s.poll).badVAddr = s.badVAddr := rfl
@[simp] theorem State.poll_status (s : State) : (s.poll).status = s.status := rfl
@[simp] theorem State.poll_cause (s : State) : (s.poll).cause = { s.cause with ipExt := extIrqAt s.par s.stepNo } := rfl
@[simp] theorem State.poll_epc (s : State) : (s.poll).epc = s.epc := rfl
@[simp] theorem State.poll_mem (s : State) : (s.poll).mem = s.mem := rfl
@[simp] theorem State.poll_stepNo (s : State) : (s.poll).stepNo = s.stepNo + 1 := rfl
@[simp] theorem State.poll_draws (s : State) : (s.poll).draws = s.draws := rfl
@[simp] theorem State.poll_par (s : State) : (s.poll).par = s.par := rfl
@[simp] theorem State.poll_reg (s : State) (q : Reg) : (s.poll).reg q = s.reg q := rfl
@[simp] theorem State.poll_byteAt (s : State) (x : Word) : (s.poll).byteAt x = s.byteAt x := rfl

/-! ### Fields of the nested records -/

@[simp] theorem Status.push_im (st : Status) : st.push.im = st.im := rfl
@[simp] theorem Status.pop_im (st : Status) : st.pop.im = st.im := rfl
@[simp] theorem Status.ofWord_im (v : Word) : (Status.ofWord v).im = v.extractLsb' 8 8 := rfl
@[simp] theorem Status.ofWord_modes (v : Word) : (Status.ofWord v).modes = v.extractLsb' 0 6 := rfl
@[simp] theorem Cause.writeSw_bd (c : Cause) (v : Word) : (c.writeSw v).bd = c.bd := rfl
@[simp] theorem Cause.writeSw_ce (c : Cause) (v : Word) : (c.writeSw v).ce = c.ce := rfl
@[simp] theorem Cause.writeSw_ipExt (c : Cause) (v : Word) : (c.writeSw v).ipExt = c.ipExt := rfl
@[simp] theorem Cause.writeSw_ipSw (c : Cause) (v : Word) : (c.writeSw v).ipSw = v.extractLsb' 8 2 := rfl
@[simp] theorem Cause.writeSw_excCode (c : Cause) (v : Word) : (c.writeSw v).excCode = c.excCode := rfl

end Sys2Proof.Machine
end

