-- ==== Sys2Proof/Laws/Access.lean ====
section
/-! SUPPORT. Access checks and the aligned word (`20_memory.md` R64 to R69, R73). -/

namespace Sys2Proof.Machine

/-- No exception: aligned and backed. -/
theorem accessError_eq_none {p : Params} {k : Access} {a : Word} {n : Nat} :
    accessError p k a n = none ↔ a.toNat % n = 0 ∧ allBacked p a n = true := by
  unfold accessError
  split <;> rename_i h <;> simp [h]

/-- Misaligned: the address error, whatever is backed (R66, R379). -/
theorem accessError_misaligned {p : Params} {k : Access} {a : Word} {n : Nat} (h : a.toNat % n ≠ 0) :
    accessError p k a n = some (k.addressError a) := by
  simp [accessError, h]

/-- Aligned and not backed: the bus error (R73). -/
theorem accessError_unbacked {p : Params} {k : Access} {a : Word} {n : Nat} (h : a.toNat % n = 0)
    (hb : allBacked p a n = false) : accessError p k a n = some k.busError := by
  simp [accessError, h, hb]

/-- Everything the check can answer. -/
theorem accessError_cases (p : Params) (k : Access) (a : Word) (n : Nat) :
    (a.toNat % n ≠ 0 ∧ accessError p k a n = some (k.addressError a)) ∨
    (a.toNat % n = 0 ∧ allBacked p a n = false ∧ accessError p k a n = some k.busError) ∨
    (a.toNat % n = 0 ∧ allBacked p a n = true ∧ accessError p k a n = none) := by
  by_cases h : a.toNat % n = 0
  · cases hb : allBacked p a n
    · exact .inr (.inl ⟨h, rfl, accessError_unbacked h hb⟩)
    · exact .inr (.inr ⟨h, rfl, accessError_eq_none.2 ⟨h, hb⟩⟩)
  · exact .inl ⟨h, accessError_misaligned h⟩

/-- Backing, byte by byte. -/
theorem allBacked_iff {p : Params} {a : Word} {n : Nat} :
    allBacked p a n = true ↔ ∀ i < n, backed p (a + BitVec.ofNat 32 i) = true := by
  simp [allBacked, List.all_eq_true]

/-- Backing, range by range. -/
theorem backed_iff {p : Params} {a : Word} :
    backed p a = true ↔ ∀ r ∈ p.unbacked, a.toNat < r.first ∨ r.last < a.toNat := by
  simp [backed, List.all_eq_true]

/-- The aligned word is the address less its last two bits. -/
theorem alignedWord_toNat (a : Word) : (alignedWord a).toNat = a.toNat - a.toNat % 4 := by
  have h : alignedWord a = (a >>> 2) <<< 2 := by
    apply BitVec.eq_of_getLsbD_eq
    intro i hi
    simp only [alignedWord, BitVec.getLsbD_and, BitVec.getLsbD_shiftLeft, BitVec.getLsbD_ushiftRight]
    interval_cases i <;> simp
  have := a.isLt
  rw [h, BitVec.toNat_shiftLeft, BitVec.toNat_ushiftRight, Nat.shiftLeft_eq, Nat.shiftRight_eq_div_pow]
  omega

/-- The aligned word is word-aligned. -/
theorem alignedWord_mod (a : Word) : (alignedWord a).toNat % 4 = 0 := by
  rw [alignedWord_toNat]; omega

/-- An address is its aligned word plus its last two bits. -/
theorem alignedWord_add (a : Word) : alignedWord a + BitVec.ofNat 32 (a.toNat % 4) = a := by
  apply BitVec.eq_of_toNat_eq
  have := a.isLt
  simp only [BitVec.toNat_add, alignedWord_toNat, BitVec.toNat_ofNat]
  omega

end Sys2Proof.Machine
end

