-- ==== Sys2Proof/Laws/Encoding.lean ====
section
/-! SUPPORT. The fields of an encoded word: what `30_encoding.md` R101 cuts out of a word built by R102 to
R105. First each format's word as a number, then each field. -/

namespace Sys2Proof

/-- Concatenation as a number. -/
theorem append_toNat {m n : Nat} (x : BitVec m) (y : BitVec n) :
    (x ++ y).toNat = x.toNat * 2 ^ n + y.toNat := by
  rw [BitVec.toNat_append, ← Nat.shiftLeft_add_eq_or_of_lt y.isLt, Nat.shiftLeft_eq]

theorem encodeR_toNat (rs rt rd sh : BitVec 5) (fn : BitVec 6) :
    (encodeR rs rt rd sh fn).toNat =
      rs.toNat * 2 ^ 21 + rt.toNat * 2 ^ 16 + rd.toNat * 2 ^ 11 + sh.toNat * 2 ^ 6 + fn.toNat := by
  simp only [encodeR, append_toNat, BitVec.toNat_ofNat]
  omega

theorem encodeI_toNat (op : BitVec 6) (rs rt : BitVec 5) (imm : Half) :
    (encodeI op rs rt imm).toNat =
      op.toNat * 2 ^ 26 + rs.toNat * 2 ^ 21 + rt.toNat * 2 ^ 16 + imm.toNat := by
  simp only [encodeI, append_toNat]
  omega

theorem encodeJ_toNat (op : BitVec 6) (t : BitVec 26) :
    (encodeJ op t).toNat = op.toNat * 2 ^ 26 + t.toNat := by
  simp only [encodeJ, append_toNat]

theorem encodeCop0_toNat (sel rt rd : BitVec 5) :
    (encodeCop0 sel rt rd).toNat =
      16 * 2 ^ 26 + sel.toNat * 2 ^ 21 + rt.toNat * 2 ^ 16 + rd.toNat * 2 ^ 11 := by
  simp only [encodeCop0, append_toNat, BitVec.toNat_ofNat]
  omega

/-! ### R format -/

section
variable (rs rt rd sh : BitVec 5) (fn : BitVec 6)

@[simp] theorem opField_encodeR : opField (encodeR rs rt rd sh fn) = 0x00#6 := by
  apply BitVec.eq_of_toNat_eq
  simp only [opField, BitVec.extractLsb'_toNat, encodeR_toNat, Nat.shiftRight_eq_div_pow]
  simp only [BitVec.toNat_ofNat]; omega

@[simp] theorem rsField_encodeR : rsField (encodeR rs rt rd sh fn) = rs := by
  apply BitVec.eq_of_toNat_eq
  simp only [rsField, BitVec.extractLsb'_toNat, encodeR_toNat, Nat.shiftRight_eq_div_pow]; omega

@[simp] theorem rtField_encodeR : rtField (encodeR rs rt rd sh fn) = rt := by
  apply BitVec.eq_of_toNat_eq
  simp only [rtField, BitVec.extractLsb'_toNat, encodeR_toNat, Nat.shiftRight_eq_div_pow]; omega

@[simp] theorem rdField_encodeR : rdField (encodeR rs rt rd sh fn) = rd := by
  apply BitVec.eq_of_toNat_eq
  simp only [rdField, BitVec.extractLsb'_toNat, encodeR_toNat, Nat.shiftRight_eq_div_pow]; omega

@[simp] theorem shamtField_encodeR : shamtField (encodeR rs rt rd sh fn) = sh := by
  apply BitVec.eq_of_toNat_eq
  simp only [shamtField, BitVec.extractLsb'_toNat, encodeR_toNat, Nat.shiftRight_eq_div_pow]; omega

@[simp] theorem functField_encodeR : functField (encodeR rs rt rd sh fn) = fn := by
  apply BitVec.eq_of_toNat_eq
  simp only [functField, BitVec.extractLsb'_toNat, encodeR_toNat, Nat.shiftRight_eq_div_pow]; omega

end

/-! ### I format -/

section
variable (op : BitVec 6) (rs rt : BitVec 5) (imm : Half)

@[simp] theorem opField_encodeI : opField (encodeI op rs rt imm) = op := by
  apply BitVec.eq_of_toNat_eq
  simp only [opField, BitVec.extractLsb'_toNat, encodeI_toNat, Nat.shiftRight_eq_div_pow]; omega

@[simp] theorem rsField_encodeI : rsField (encodeI op rs rt imm) = rs := by
  apply BitVec.eq_of_toNat_eq
  simp only [rsField, BitVec.extractLsb'_toNat, encodeI_toNat, Nat.shiftRight_eq_div_pow]; omega

@[simp] theorem rtField_encodeI : rtField (encodeI op rs rt imm) = rt := by
  apply BitVec.eq_of_toNat_eq
  simp only [rtField, BitVec.extractLsb'_toNat, encodeI_toNat, Nat.shiftRight_eq_div_pow]; omega

@[simp] theorem immField_encodeI : immField (encodeI op rs rt imm) = imm := by
  apply BitVec.eq_of_toNat_eq
  simp only [immField, BitVec.extractLsb'_toNat, encodeI_toNat, Nat.shiftRight_eq_div_pow]; omega

end

/-! ### J format, `syscall` and COP0 -/

@[simp] theorem opField_encodeJ (op : BitVec 6) (t : BitVec 26) : opField (encodeJ op t) = op := by
  apply BitVec.eq_of_toNat_eq
  simp only [opField, BitVec.extractLsb'_toNat, encodeJ_toNat, Nat.shiftRight_eq_div_pow]; omega

@[simp] theorem targetField_encodeJ (op : BitVec 6) (t : BitVec 26) : targetField (encodeJ op t) = t := by
  apply BitVec.eq_of_toNat_eq
  simp only [targetField, BitVec.extractLsb'_toNat, encodeJ_toNat, Nat.shiftRight_eq_div_pow]; omega

theorem encode_syscall_toNat (c : BitVec 20) : (encode (.syscall c)).toNat = c.toNat * 2 ^ 6 + 12 := by
  simp only [encode, append_toNat, BitVec.toNat_ofNat]; omega

@[simp] theorem opField_encode_syscall (c : BitVec 20) : opField (encode (.syscall c)) = 0x00#6 := by
  apply BitVec.eq_of_toNat_eq
  simp only [opField, BitVec.extractLsb'_toNat, encode_syscall_toNat, Nat.shiftRight_eq_div_pow,
    BitVec.toNat_ofNat]; omega

@[simp] theorem functField_encode_syscall (c : BitVec 20) : functField (encode (.syscall c)) = 0x0C#6 := by
  apply BitVec.eq_of_toNat_eq
  simp only [functField, BitVec.extractLsb'_toNat, encode_syscall_toNat, Nat.shiftRight_eq_div_pow,
    BitVec.toNat_ofNat]; omega

@[simp] theorem codeField_encode_syscall (c : BitVec 20) : codeField (encode (.syscall c)) = c := by
  apply BitVec.eq_of_toNat_eq
  simp only [codeField, BitVec.extractLsb'_toNat, encode_syscall_toNat, Nat.shiftRight_eq_div_pow]; omega

section
variable (sel rt rd : BitVec 5)

@[simp] theorem opField_encodeCop0 : opField (encodeCop0 sel rt rd) = 0x10#6 := by
  apply BitVec.eq_of_toNat_eq
  simp only [opField, BitVec.extractLsb'_toNat, encodeCop0_toNat, Nat.shiftRight_eq_div_pow,
    BitVec.toNat_ofNat]; omega

@[simp] theorem rsField_encodeCop0 : rsField (encodeCop0 sel rt rd) = sel := by
  apply BitVec.eq_of_toNat_eq
  simp only [rsField, BitVec.extractLsb'_toNat, encodeCop0_toNat, Nat.shiftRight_eq_div_pow]; omega

@[simp] theorem rtField_encodeCop0 : rtField (encodeCop0 sel rt rd) = rt := by
  apply BitVec.eq_of_toNat_eq
  simp only [rtField, BitVec.extractLsb'_toNat, encodeCop0_toNat, Nat.shiftRight_eq_div_pow]; omega

@[simp] theorem rdField_encodeCop0 : rdField (encodeCop0 sel rt rd) = rd := by
  apply BitVec.eq_of_toNat_eq
  simp only [rdField, BitVec.extractLsb'_toNat, encodeCop0_toNat, Nat.shiftRight_eq_div_pow]; omega

@[simp] theorem shamtField_encodeCop0 : shamtField (encodeCop0 sel rt rd) = 0#5 := by
  apply BitVec.eq_of_toNat_eq
  simp only [shamtField, BitVec.extractLsb'_toNat, encodeCop0_toNat, Nat.shiftRight_eq_div_pow,
    BitVec.toNat_ofNat]; omega

@[simp] theorem functField_encodeCop0 : functField (encodeCop0 sel rt rd) = 0#6 := by
  apply BitVec.eq_of_toNat_eq
  simp only [functField, BitVec.extractLsb'_toNat, encodeCop0_toNat, Nat.shiftRight_eq_div_pow,
    BitVec.toNat_ofNat]; omega

end

/-- The coprocessor-0 register of a well-formed operand's number is that operand (R30, R37). -/
theorem cp0RegOf_cp0Number (c : Cp0Reg) (h : c.wellFormed = true) : cp0RegOf (cp0Number c) = c := by
  cases c with
  | other n =>
    simp only [Cp0Reg.wellFormed, Bool.and_eq_true, bne_iff_ne, ne_eq] at h
    simp [cp0Number, cp0RegOf, h.1.1.1, h.1.1.2, h.1.2, h.2]
  | _ => decide

/-- Every number names a well-formed operand, and keeps its number. -/
theorem cp0RegOf_wellFormed (n : BitVec 5) : (cp0RegOf n).wellFormed = true ∧ cp0Number (cp0RegOf n) = n := by
  unfold cp0RegOf
  split_ifs with h1 h2 h3 h4
  · exact ⟨rfl, h1.symm⟩
  · exact ⟨rfl, h2.symm⟩
  · exact ⟨rfl, h3.symm⟩
  · exact ⟨rfl, h4.symm⟩
  · exact ⟨by simp [Cp0Reg.wellFormed, h1, h2, h3, h4], rfl⟩

/-! ### Every word is its fields -/

/-- A word is the R format of its fields when `op` is 0. -/
theorem encodeR_fields (w : Word) (h : opField w = 0x00#6) :
    encodeR (rsField w) (rtField w) (rdField w) (shamtField w) (functField w) = w := by
  have h' := congrArg BitVec.toNat h
  simp only [opField, BitVec.extractLsb'_toNat, Nat.shiftRight_eq_div_pow, BitVec.toNat_ofNat] at h'
  apply BitVec.eq_of_toNat_eq
  simp only [encodeR_toNat, rsField, rtField, rdField, shamtField, functField, BitVec.extractLsb'_toNat,
    Nat.shiftRight_eq_div_pow]
  have := w.isLt
  omega

/-- A word is the I format of its fields. -/
theorem encodeI_fields (w : Word) : encodeI (opField w) (rsField w) (rtField w) (immField w) = w := by
  apply BitVec.eq_of_toNat_eq
  simp only [encodeI_toNat, opField, rsField, rtField, immField, BitVec.extractLsb'_toNat,
    Nat.shiftRight_eq_div_pow]
  have := w.isLt
  omega

/-- A word is the J format of its fields. -/
theorem encodeJ_fields (w : Word) : encodeJ (opField w) (targetField w) = w := by
  apply BitVec.eq_of_toNat_eq
  simp only [encodeJ_toNat, opField, targetField, BitVec.extractLsb'_toNat, Nat.shiftRight_eq_div_pow]
  have := w.isLt
  omega

/-- A word with `op` = 0 and the `funct` of `syscall` is the `syscall` of its `code`. -/
theorem encode_syscall_fields (w : Word) (h : opField w = 0x00#6) (hf : functField w = 0x0C#6) :
    encode (.syscall (codeField w)) = w := by
  have h' := congrArg BitVec.toNat h
  have hf' := congrArg BitVec.toNat hf
  simp only [opField, functField, BitVec.extractLsb'_toNat, Nat.shiftRight_eq_div_pow,
    BitVec.toNat_ofNat] at h' hf'
  apply BitVec.eq_of_toNat_eq
  simp only [encode_syscall_toNat, codeField, BitVec.extractLsb'_toNat, Nat.shiftRight_eq_div_pow]
  have := w.isLt
  omega

/-- A word is the COP0 form of its fields when `op` is 0x10 and bits 10:0 are zero. -/
theorem encodeCop0_fields (w : Word) (h : opField w = 0x10#6) (hs : shamtField w = 0#5)
    (hf : functField w = 0#6) : encodeCop0 (rsField w) (rtField w) (rdField w) = w := by
  have h' := congrArg BitVec.toNat h
  have hs' := congrArg BitVec.toNat hs
  have hf' := congrArg BitVec.toNat hf
  simp only [opField, shamtField, functField, BitVec.extractLsb'_toNat, Nat.shiftRight_eq_div_pow,
    BitVec.toNat_ofNat] at h' hs' hf'
  apply BitVec.eq_of_toNat_eq
  simp only [encodeCop0_toNat, rsField, rtField, rdField, BitVec.extractLsb'_toNat,
    Nat.shiftRight_eq_div_pow]
  have := w.isLt
  omega

end Sys2Proof
end

