-- ==== Sys2Proof/Laws/Memory.lean ====
section
/-! SUPPORT. Memory: a read after a write, every other byte unchanged, the canonical form kept; then the same
for the halfwords and words built from bytes (`20_memory.md` R60, R62, R67). -/

namespace Sys2Proof.Machine

/-! ### Bytes -/

theorem Memory.readByte_erase (m : Memory) (a x : Nat) :
    (m.erase a).readByte x = if x = a then Config.unlistedByte else m.readByte x := by
  induction m with
  | nil => simp [Memory.erase, Memory.readByte]
  | cons c m ih =>
    obtain ⟨k, b⟩ := c
    by_cases hk : a = k
    · subst hk
      simp only [Memory.erase, if_true, ih, Memory.readByte]
      split <;> rfl
    · simp only [Memory.erase, hk, if_false, Memory.readByte, ih]
      by_cases hx : x = k
      · subst hx; simp [Ne.symm hk]
      · simp [hx]

theorem Memory.readByte_insert (m : Memory) (a x : Nat) (v : Byte) :
    (m.insert a v).readByte x = if x = a then v else m.readByte x := by
  induction m with
  | nil => simp [Memory.insert, Memory.readByte]
  | cons c m ih =>
    obtain ⟨k, b⟩ := c
    by_cases hlt : a < k
    · simp [Memory.insert, hlt, Memory.readByte]
    by_cases hk : a = k
    · subst hk
      simp only [Memory.insert, lt_irrefl, if_false, if_true, Memory.readByte]
      split <;> rfl
    · simp only [Memory.insert, hlt, hk, if_false, Memory.readByte, ih]
      by_cases hx : x = k
      · subst hx; simp [Ne.symm hk]
      · simp [hx]

/-- A read after a write: the byte written at its address, the old byte at any other. -/
theorem Memory.readByte_writeByte (m : Memory) (a x : Nat) (v : Byte) :
    (m.writeByte a v).readByte x = if x = a then v else m.readByte x := by
  unfold Memory.writeByte
  split
  · rename_i h; rw [Memory.readByte_erase, h]
  · exact Memory.readByte_insert m a x v

theorem Memory.wfFrom_mono {lo lo' : Nat} (h : lo' ≤ lo) {m : Memory} (hm : m.wfFrom lo = true) :
    m.wfFrom lo' = true := by
  cases m with
  | nil => rfl
  | cons c m =>
    obtain ⟨k, b⟩ := c
    simp only [Memory.wfFrom, Bool.and_eq_true, decide_eq_true_eq] at hm ⊢
    exact ⟨⟨⟨by omega, hm.1.1.2⟩, hm.1.2⟩, hm.2⟩

theorem Memory.wfFrom_erase {lo : Nat} {m : Memory} (a : Nat) (hm : m.wfFrom lo = true) :
    (m.erase a).wfFrom lo = true := by
  induction m generalizing lo with
  | nil => rfl
  | cons c m ih =>
    obtain ⟨k, b⟩ := c
    simp only [Memory.wfFrom, Bool.and_eq_true, decide_eq_true_eq] at hm
    by_cases hk : a = k
    · simp only [Memory.erase, hk, if_true]
      rw [← hk]
      exact ih (Memory.wfFrom_mono (by omega) hm.2)
    · simp only [Memory.erase, hk, if_false, Memory.wfFrom, Bool.and_eq_true, decide_eq_true_eq]
      exact ⟨hm.1, ih hm.2⟩

theorem Memory.wfFrom_insert {lo a : Nat} {m : Memory} {v : Byte} (hlo : lo ≤ a) (ha : a < 2 ^ 32)
    (hv : v ≠ Config.unlistedByte) (hm : m.wfFrom lo = true) : (m.insert a v).wfFrom lo = true := by
  induction m generalizing lo with
  | nil =>
    have hb : decide (a < 2 ^ 32) = true := by simpa using ha
    simp only [Memory.insert, Memory.wfFrom, hlo, hb, decide_true, Bool.true_and, Bool.and_true, bne_iff_ne]
    exact hv
  | cons c m ih =>
    obtain ⟨k, b⟩ := c
    simp only [Memory.wfFrom, Bool.and_eq_true, decide_eq_true_eq] at hm
    by_cases hlt : a < k
    · simp only [Memory.insert, hlt, if_true, Memory.wfFrom, Bool.and_eq_true, decide_eq_true_eq,
        bne_iff_ne, ne_eq]
      exact ⟨⟨⟨hlo, ha⟩, hv⟩, ⟨⟨by omega, hm.1.1.2⟩, by simpa using hm.1.2⟩, hm.2⟩
    by_cases hk : a = k
    · subst hk
      simp only [Memory.insert, lt_irrefl, if_false, if_true, Memory.wfFrom, Bool.and_eq_true,
        decide_eq_true_eq, bne_iff_ne, ne_eq]
      exact ⟨⟨⟨hlo, ha⟩, hv⟩, hm.2⟩
    · simp only [Memory.insert, hlt, hk, if_false, Memory.wfFrom, Bool.and_eq_true, decide_eq_true_eq]
      exact ⟨hm.1, ih (by omega) hm.2⟩

/-- A write inside the address space keeps the canonical form. -/
theorem Memory.wf_writeByte {m : Memory} {a : Nat} (v : Byte) (ha : a < 2 ^ 32) (hm : m.wf = true) :
    (m.writeByte a v).wf = true := by
  unfold Memory.writeByte
  split
  · exact Memory.wfFrom_erase a hm
  · rename_i hv; exact Memory.wfFrom_insert (Nat.zero_le a) ha hv hm

/-- Every store of a byte keeps the canonical form. -/
theorem State.setByte_wf (s : State) (a : Word) (v : Byte) (h : s.mem.wf = true) :
    (s.setByte a v).mem.wf = true :=
  Memory.wf_writeByte v a.isLt h

/-- A byte read after a byte stored. -/
theorem State.setByte_byteAt (s : State) (a x : Word) (v : Byte) :
    (s.setByte a v).byteAt x = if x = a then v else s.byteAt x := by
  simp only [State.byteAt, State.setByte, Memory.readByte_writeByte]
  by_cases h : x = a
  · simp [h]
  · have : x.toNat ≠ a.toNat := fun h' => h (BitVec.eq_of_toNat_eq h')
    simp [h, this]

/-! ### Halfwords and words -/

theorem State.setHalf_wf (s : State) (a v : Word) (h : s.mem.wf = true) : (s.setHalf a v).mem.wf = true :=
  State.setByte_wf _ _ _ (State.setByte_wf _ _ _ h)

theorem State.setWord_wf (s : State) (a v : Word) (h : s.mem.wf = true) : (s.setWord a v).mem.wf = true :=
  State.setByte_wf _ _ _ (State.setByte_wf _ _ _ (State.setByte_wf _ _ _ (State.setByte_wf _ _ _ h)))

/-- Right after reset memory has its canonical form: nothing is listed. -/
theorem State.reset_wf : State.reset.mem.wf = true := rfl

/-- What a stored halfword leaves at every address. -/
theorem State.setHalf_byteAt (s : State) (a v x : Word) :
    (s.setHalf a v).byteAt x =
      if x = a + 1#32 then halfByte s.par.endian v 1
      else if x = a then halfByte s.par.endian v 0 else s.byteAt x := by
  simp only [State.setHalf, State.setByte_byteAt]

/-- What a stored word leaves at every address. -/
theorem State.setWord_byteAt (s : State) (a v x : Word) :
    (s.setWord a v).byteAt x =
      if x = a + 3#32 then wordByte s.par.endian v 3
      else if x = a + 2#32 then wordByte s.par.endian v 2
      else if x = a + 1#32 then wordByte s.par.endian v 1
      else if x = a then wordByte s.par.endian v 0 else s.byteAt x := by
  simp only [State.setWord, State.setByte_byteAt]

/-- A word's bytes, joined in the same order, are the word. -/
theorem joinWord_wordByte (e : Endian) (v : Word) :
    joinWord e (wordByte e v 0) (wordByte e v 1) (wordByte e v 2) (wordByte e v 3) = v := by
  cases e <;>
  · apply BitVec.eq_of_toNat_eq
    simp only [joinWord, wordByte, BitVec.toNat_append, BitVec.extractLsb'_toNat]
    have := v.isLt
    simp only [Nat.shiftRight_eq_div_pow]
    rw [← Nat.shiftLeft_add_eq_or_of_lt (by omega), ← Nat.shiftLeft_add_eq_or_of_lt (by omega),
      ← Nat.shiftLeft_add_eq_or_of_lt (by omega)]
    simp only [Nat.shiftLeft_eq]
    omega

/-- A word stored reads back, under either byte order (R62). -/
theorem State.setWord_wordAt (s : State) (a v : Word) : (s.setWord a v).wordAt a = v := by
  have h1 : a + 1#32 ≠ a + 2#32 := by simp
  have h2 : a + 1#32 ≠ a + 3#32 := by simp
  have h3 : a + 2#32 ≠ a + 3#32 := by simp
  have h4 : a ≠ a + 1#32 := by simp
  have h5 : a ≠ a + 2#32 := by simp
  have h6 : a ≠ a + 3#32 := by simp
  simp only [State.wordAt, State.setWord_byteAt, State.setWord_par, if_true, h1, h2, h3, h4, h5, h6,
    if_false]
  exact joinWord_wordByte _ v

end Sys2Proof.Machine
end

