-- ==== Sys2Proof/Laws/Registers.lean ====
section
/-! SUPPORT. The general registers: reading after writing, register 0 (`10_state.md` R20, R21). -/

namespace Sys2Proof.Machine

/-- Two registers other than 0 with the same storage are the same register. -/
theorem reg_index_inj {r q : Reg} (hr : r ≠ 0#5) (hq : q ≠ 0#5) (h : r.toNat - 1 = q.toNat - 1) : r = q := by
  have h1 : 0 < r.toNat := Nat.pos_of_ne_zero fun h0 => hr (BitVec.eq_of_toNat_eq (by simpa using h0))
  have h2 : 0 < q.toNat := Nat.pos_of_ne_zero fun h0 => hq (BitVec.eq_of_toNat_eq (by simpa using h0))
  exact BitVec.eq_of_toNat_eq (by omega)

/-- `x[0]` reads zero. -/
@[simp] theorem State.reg_zero (s : State) : s.reg 0#5 = 0#32 := by simp [State.reg]

/-- A register other than 0 reads what was written to it. -/
theorem State.setReg_reg_same (s : State) {r : Reg} (v : Word) (hr : r ≠ 0#5) : (s.setReg r v).reg r = v := by
  simp [State.reg, State.setReg, hr]

/-- Every other register reads as before. -/
theorem State.setReg_reg_other (s : State) {r q : Reg} (v : Word) (h : q ≠ r) :
    (s.setReg r v).reg q = s.reg q := by
  by_cases hq : q = 0#5
  · simp [State.reg, hq]
  by_cases hr : r = 0#5
  · simp [State.reg, State.setReg, hr]
  have hne : r.toNat - 1 ≠ q.toNat - 1 := fun he => h (reg_index_inj hr hq he).symm
  simp [State.reg, State.setReg, hr, hq, hne]

/-- Everything a register write does to the registers. -/
theorem State.setReg_reg (s : State) (r q : Reg) (v : Word) :
    (s.setReg r v).reg q = if q = r ∧ r ≠ 0#5 then v else s.reg q := by
  by_cases h : q = r
  · subst h
    by_cases hq : q = 0#5
    · simp [State.reg, hq]
    · rw [State.setReg_reg_same s v hq, if_pos ⟨rfl, hq⟩]
  · simp [h, State.setReg_reg_other s v h]

/-- A write to `x[0]` is discarded. -/
@[simp] theorem State.setReg_zero (s : State) (v : Word) : s.setReg 0#5 v = s := by simp [State.setReg]

/-- Two states that differ at most in the storage of the registers, and whose registers read alike, are equal. -/
theorem State.gpr_ext {u v : Vector Word 31} (s : State)
    (h : ∀ q, ({ s with gpr := u } : State).reg q = ({ s with gpr := v } : State).reg q) : u = v := by
  apply Vector.ext
  intro i hi
  have hq : (BitVec.ofNat 5 (i + 1)).toNat = i + 1 := by
    rw [BitVec.toNat_ofNat]; exact Nat.mod_eq_of_lt (by omega)
  have hne : BitVec.ofNat 5 (i + 1) ≠ 0#5 := fun h0 => by
    have := congrArg BitVec.toNat h0
    rw [hq] at this
    simp at this
  have := h (BitVec.ofNat 5 (i + 1))
  simpa [State.reg, hne, hq] using this

end Sys2Proof.Machine
end

