-- ==== Sys2Proof/Laws/Ops.lean ====
section
/-! SUPPORT. One lemma per shared operation that says everything it can answer; proofs about an instruction
cite these and unfold no operation. -/

namespace Sys2Proof.Machine

/-! ### Exceptions -/

/-- The 32-bit word of `Status` without the reserved bits, bit by bit, after an exception entry (R380). -/
theorem Status.push_bits (st : Status) :
    st.push.kuo = st.kup ∧ st.push.ieo = st.iep ∧ st.push.kup = st.kuc ∧ st.push.iep = st.iec ∧
      st.push.kuc = false ∧ st.push.iec = false := by
  simp only [Status.push, Status.kuo, Status.ieo, Status.kup, Status.iep, Status.kuc, Status.iec,
    BitVec.getLsbD_append, BitVec.getLsbD_extractLsb']
  simp

/-- The same after `rfe` (R352). -/
theorem Status.pop_bits (st : Status) :
    st.pop.kuo = st.kuo ∧ st.pop.ieo = st.ieo ∧ st.pop.kup = st.kuo ∧ st.pop.iep = st.ieo ∧
      st.pop.kuc = st.kup ∧ st.pop.iec = st.iep := by
  simp only [Status.pop, Status.kuo, Status.ieo, Status.kup, Status.iep, Status.kuc, Status.iec,
    BitVec.getLsbD_append, BitVec.getLsbD_extractLsb']
  simp

/-- An exception entry leaves `IP` alone. -/
@[simp] theorem State.raise_ip (s : State) (e : Exc) : (s.raise e).cause.ip = s.cause.ip := rfl

/-! ### Outcomes -/

/-- A signed result is written, or the overflow exception is taken. -/
theorem State.writeSigned_cases (s : State) (rd : Reg) (r : Int) :
    (-2 ^ 31 ≤ r ∧ r ≤ 2 ^ 31 - 1 ∧
      s.writeSigned rd r = .next (s.setReg rd (BitVec.ofInt 32 r)).advance) ∨
    (¬(-2 ^ 31 ≤ r ∧ r ≤ 2 ^ 31 - 1) ∧ s.writeSigned rd r = .next (s.raise .ov)) := by
  unfold State.writeSigned fitsSigned
  by_cases h : -2 ^ 31 ≤ r ∧ r ≤ 2 ^ 31 - 1
  · refine .inl ⟨h.1, h.2, ?_⟩
    rw [if_pos (by simpa using h)]; rfl
  · refine .inr ⟨h, ?_⟩
    rw [if_neg (by simpa using h)]; rfl

/-- A load writes its register, or takes the exception of its access. -/
theorem State.loadReg_cases (s : State) (a : Word) (n : Nat) (rt : Reg) (v : Word) :
    (accessError s.par .load a n = none ∧ s.loadReg a n rt v = .next (s.setReg rt v).advance) ∨
    (∃ e, accessError s.par .load a n = some e ∧ s.loadReg a n rt v = .next (s.raise e)) := by
  unfold State.loadReg
  cases h : accessError s.par .load a n with
  | none => exact .inl ⟨rfl, rfl⟩
  | some e => exact .inr ⟨e, rfl, rfl⟩

/-- A store leaves its memory, or takes the exception of its access. -/
theorem State.storeMem_cases (s : State) (a : Word) (n : Nat) (s' : State) :
    (accessError s.par .store a n = none ∧ s.storeMem a n s' = .next s'.advance) ∨
    (∃ e, accessError s.par .store a n = some e ∧ s.storeMem a n s' = .next (s.raise e)) := by
  unfold State.storeMem
  cases h : accessError s.par .store a n with
  | none => exact .inl ⟨rfl, rfl⟩
  | some e => exact .inr ⟨e, rfl, rfl⟩

/-- `div` writes `hi` and `lo` and draws at most two free words; nothing else changes but `pc` (R146). -/
theorem execDiv_cases (rs rt : Reg) (s : State) :
    ∃ h l k, execDiv rs rt s = .next ((s.setHiLo h l).drew k).advance := by
  have hq : ∀ q r, ∃ h l k, s.quotRem q r = .next ((s.setHiLo h l).drew k).advance := fun q r =>
    ⟨BitVec.ofInt 32 r, BitVec.ofInt 32 q, 0, rfl⟩
  have hd : ∃ h l k, s.drawHiLo = .next ((s.setHiLo h l).drew k).advance :=
    ⟨s.free 1, s.free 0, 2, rfl⟩
  unfold execDiv
  dsimp only
  split
  · exact hd
  · split
    · exact hq _ _
    · split
      · exact ⟨0x00000000#32, 0x80000000#32, 0, rfl⟩
      · split
        · exact hq _ _
        · exact hd

/-- `divu` likewise (R147). -/
theorem execDivu_cases (rs rt : Reg) (s : State) :
    ∃ h l k, execDivu rs rt s = .next ((s.setHiLo h l).drew k).advance := by
  unfold execDivu
  dsimp only
  split
  · exact ⟨s.free 1, s.free 0, 2, rfl⟩
  · exact ⟨BitVec.ofNat 32 (s.ureg rs - s.ureg rt * (s.ureg rs / s.ureg rt)),
      BitVec.ofNat 32 (s.ureg rs / s.ureg rt), 0, rfl⟩

/-- `mfc0` writes its register from a defined coprocessor-0 register, or is refused (R350). -/
theorem execMfc0_cases (rt : Reg) (c : Cp0Reg) (s : State) :
    (∃ v k, execMfc0 rt c s = .next ((s.setReg rt v).drew k).advance) ∨
    (∃ n, c = .other n ∧ execMfc0 rt c s = .refused (.mfc0Undefined n)) := by
  cases c with
  | badVAddr => exact .inl ⟨_, 0, rfl⟩
  | status => exact .inl ⟨_, 1, rfl⟩
  | cause => exact .inl ⟨_, 1, rfl⟩
  | epc => exact .inl ⟨_, 0, rfl⟩
  | other n => exact .inr ⟨n, rfl, rfl⟩

/-- `mtc0` writes a defined coprocessor-0 register, or is refused (R351). -/
theorem execMtc0_cases (rt : Reg) (c : Cp0Reg) (s : State) :
    (c = .badVAddr ∧ execMtc0 rt c s = .next s.advance) ∨
    (c = .status ∧ execMtc0 rt c s = .next (s.setStatus (Status.ofWord (s.reg rt))).advance) ∨
    (c = .cause ∧ execMtc0 rt c s = .next (s.setCause (s.cause.writeSw (s.reg rt))).advance) ∨
    (c = .epc ∧ execMtc0 rt c s = .next (s.setEpc (s.reg rt)).advance) ∨
    (∃ n, c = .other n ∧ execMtc0 rt c s = .refused (.mtc0Undefined n)) := by
  cases c with
  | badVAddr => exact .inl ⟨rfl, rfl⟩
  | status => exact .inr (.inl ⟨rfl, rfl⟩)
  | cause => exact .inr (.inr (.inl ⟨rfl, rfl⟩))
  | epc => exact .inr (.inr (.inr (.inl ⟨rfl, rfl⟩)))
  | other n => exact .inr (.inr (.inr (.inr ⟨n, rfl, rfl⟩)))

/-! ### The instruction cycle -/

/-- The fetch answers the word at `pc`, or an address error, or a bus error (R68). -/
theorem State.fetch_cases (s : State) :
    (s.pc.toNat % 4 ≠ 0 ∧ s.fetch = .error (.adEL s.pc)) ∨
    (s.pc.toNat % 4 = 0 ∧ allBacked s.par s.pc 4 = false ∧ s.fetch = .error .ibe) ∨
    (s.pc.toNat % 4 = 0 ∧ allBacked s.par s.pc 4 = true ∧ s.fetch = .ok (s.wordAt s.pc)) := by
  rcases accessError_cases s.par .fetch s.pc 4 with ⟨h, he⟩ | ⟨h, hb, he⟩ | ⟨h, hb, he⟩
  · exact .inl ⟨h, by simp [State.fetch, he, Access.addressError]⟩
  · exact .inr (.inl ⟨h, hb, by simp [State.fetch, he, Access.busError]⟩)
  · exact .inr (.inr ⟨h, hb, by simp [State.fetch, he]⟩)

/-- Points 2 to 4 of the cycle: an interrupt, a fetch exception, a reserved word, or an instruction (R26,
R379). -/
theorem State.select_cases (s : State) :
    (interruptPending s.status s.cause = true ∧ s.select = .error .int) ∨
    (interruptPending s.status s.cause = false ∧ ∃ e, s.fetch = .error e ∧ s.select = .error e) ∨
    (interruptPending s.status s.cause = false ∧ ∃ w r, s.fetch = .ok w ∧ decode w = .error r ∧
      s.select = .error .ri) ∨
    (interruptPending s.status s.cause = false ∧ ∃ w i, s.fetch = .ok w ∧ decode w = .ok i ∧
      s.select = .ok i) := by
  unfold State.select
  cases hi : interruptPending s.status s.cause with
  | true => exact .inl ⟨rfl, rfl⟩
  | false =>
    refine .inr ?_
    cases hf : s.fetch with
    | error e => exact .inl ⟨rfl, e, rfl, rfl⟩
    | ok w =>
      refine .inr ?_
      cases hd : decode w with
      | error r => exact .inl ⟨rfl, w, r, rfl, hd, by simp [hd]⟩
      | ok i => exact .inr ⟨rfl, w, i, rfl, hd, by simp [hd]⟩

/-- Everything a step can do: take an exception before execution, or execute the selected instruction. -/
theorem step_cases (s : State) :
    (∃ e, s.poll.select = .error e ∧ step s = .next (s.poll.raise e)) ∨
    (∃ i, s.poll.select = .ok i ∧ step s = exec i s.poll) := by
  unfold step
  cases h : s.poll.select with
  | error e => exact .inl ⟨e, rfl, rfl⟩
  | ok i => exact .inr ⟨i, rfl, rfl⟩

end Sys2Proof.Machine
end

