-- ==== Sys2Proof/Laws/PerInstr.lean ====
section
/-! SUPPORT. Statements made once per instruction. `EncodingFitsRow`: the encoded word satisfies the mask and
match of the instruction's own row of the opcode table (`30_encoding.md` R115, R120). -/

namespace Sys2Proof.Laws.EncodingFitsRow

/-- The encoded word of `i` matches the row of the opcode table that bears its mnemonic. -/
def Statement (i : Instr) : Prop :=
  ∃ row ∈ opcodeTable, row.mnemonic = i.mnemonic ∧ encode i &&& row.mask = row.value

theorem fits {i : Instr} (row : OpcodeRow) (hr : row ∈ opcodeTable) (hn : row.mnemonic = i.mnemonic)
    (he : encode i &&& row.mask = row.value) : Statement i :=
  ⟨row, hr, hn, he⟩

/-! ### A format under a mask, field by field -/

theorem encodeR_and {rs rt rd sh : BitVec 5} {fn : BitVec 6} {mask value : Word} (m1 : BitVec 6)
    (m2 m3 m4 m5 : BitVec 5) (m6 : BitVec 6) (hm : mask = m1 ++ m2 ++ m3 ++ m4 ++ m5 ++ m6)
    (hv : (0x00#6 &&& m1) ++ (rs &&& m2) ++ (rt &&& m3) ++ (rd &&& m4) ++ (sh &&& m5) ++ (fn &&& m6) = value) :
    encodeR rs rt rd sh fn &&& mask = value := by
  subst hm hv
  apply BitVec.eq_of_getLsbD_eq
  intro i _
  simp only [encodeR, BitVec.getLsbD_and, BitVec.getLsbD_append]
  split_ifs <;> rfl

theorem encodeI_and {op : BitVec 6} {rs rt : BitVec 5} {imm : Half} {mask value : Word} (m1 : BitVec 6)
    (m2 m3 : BitVec 5) (m4 : BitVec 16) (hm : mask = m1 ++ m2 ++ m3 ++ m4)
    (hv : (op &&& m1) ++ (rs &&& m2) ++ (rt &&& m3) ++ (imm &&& m4) = value) :
    encodeI op rs rt imm &&& mask = value := by
  subst hm hv
  apply BitVec.eq_of_getLsbD_eq
  intro i _
  simp only [encodeI, BitVec.getLsbD_and, BitVec.getLsbD_append]
  split_ifs <;> rfl

theorem encodeJ_and {op : BitVec 6} {target : BitVec 26} {mask value : Word} (m1 : BitVec 6)
    (m2 : BitVec 26) (hm : mask = m1 ++ m2) (hv : (op &&& m1) ++ (target &&& m2) = value) :
    encodeJ op target &&& mask = value := by
  subst hm hv
  apply BitVec.eq_of_getLsbD_eq
  intro i _
  simp only [encodeJ, BitVec.getLsbD_and, BitVec.getLsbD_append]
  split_ifs <;> rfl

theorem encodeCop0_and {sel rt rd : BitVec 5} {mask value : Word} (m1 : BitVec 6)
    (m2 m3 m4 : BitVec 5) (m5 : BitVec 11) (hm : mask = m1 ++ m2 ++ m3 ++ m4 ++ m5)
    (hv : (0x10#6 &&& m1) ++ (sel &&& m2) ++ (rt &&& m3) ++ (rd &&& m4) ++ (0x000#11 &&& m5) = value) :
    encodeCop0 sel rt rd &&& mask = value := by
  subst hm hv
  apply BitVec.eq_of_getLsbD_eq
  intro i _
  simp only [encodeCop0, BitVec.getLsbD_and, BitVec.getLsbD_append]
  split_ifs <;> rfl

theorem syscall_and {code : BitVec 20} {mask value : Word} (m1 : BitVec 6) (m2 : BitVec 20)
    (m3 : BitVec 6) (hm : mask = m1 ++ m2 ++ m3)
    (hv : (0x00#6 &&& m1) ++ (code &&& m2) ++ (0x0C#6 &&& m3) = value) :
    encode (.syscall code) &&& mask = value := by
  subst hm hv
  apply BitVec.eq_of_getLsbD_eq
  intro i _
  simp only [encode, BitVec.getLsbD_and, BitVec.getLsbD_append]
  split_ifs <;> rfl

/-! ### One lemma per instruction -/

theorem sll (rd rt : Reg) (shamt : BitVec 5) : Statement (.sll rd rt shamt) :=
  fits (row := ⟨"sll", 0xFFE0003F, 0x00000000⟩) (by decide) rfl
    (encodeR_and 0x3F#6 0x1F#5 0x00#5 0x00#5 0x00#5 0x3F#6 rfl (by simp only [BitVec.and_zero]; rfl))

theorem srl (rd rt : Reg) (shamt : BitVec 5) : Statement (.srl rd rt shamt) :=
  fits (row := ⟨"srl", 0xFFE0003F, 0x00000002⟩) (by decide) rfl
    (encodeR_and 0x3F#6 0x1F#5 0x00#5 0x00#5 0x00#5 0x3F#6 rfl (by simp only [BitVec.and_zero]; rfl))

theorem sra (rd rt : Reg) (shamt : BitVec 5) : Statement (.sra rd rt shamt) :=
  fits (row := ⟨"sra", 0xFFE0003F, 0x00000003⟩) (by decide) rfl
    (encodeR_and 0x3F#6 0x1F#5 0x00#5 0x00#5 0x00#5 0x3F#6 rfl (by simp only [BitVec.and_zero]; rfl))

theorem sllv (rd rt rs : Reg) : Statement (.sllv rd rt rs) :=
  fits (row := ⟨"sllv", 0xFC0007FF, 0x00000004⟩) (by decide) rfl
    (encodeR_and 0x3F#6 0x00#5 0x00#5 0x00#5 0x1F#5 0x3F#6 rfl (by simp only [BitVec.and_zero]; rfl))

theorem srlv (rd rt rs : Reg) : Statement (.srlv rd rt rs) :=
  fits (row := ⟨"srlv", 0xFC0007FF, 0x00000006⟩) (by decide) rfl
    (encodeR_and 0x3F#6 0x00#5 0x00#5 0x00#5 0x1F#5 0x3F#6 rfl (by simp only [BitVec.and_zero]; rfl))

theorem srav (rd rt rs : Reg) : Statement (.srav rd rt rs) :=
  fits (row := ⟨"srav", 0xFC0007FF, 0x00000007⟩) (by decide) rfl
    (encodeR_and 0x3F#6 0x00#5 0x00#5 0x00#5 0x1F#5 0x3F#6 rfl (by simp only [BitVec.and_zero]; rfl))

theorem jr (rs : Reg) : Statement (.jr rs) :=
  fits (row := ⟨"jr", 0xFC1FFFFF, 0x00000008⟩) (by decide) rfl
    (encodeR_and 0x3F#6 0x00#5 0x1F#5 0x1F#5 0x1F#5 0x3F#6 rfl (by simp only [BitVec.and_zero]; rfl))

theorem jalr (rd rs : Reg) : Statement (.jalr rd rs) :=
  fits (row := ⟨"jalr", 0xFC1F07FF, 0x00000009⟩) (by decide) rfl
    (encodeR_and 0x3F#6 0x00#5 0x1F#5 0x00#5 0x1F#5 0x3F#6 rfl (by simp only [BitVec.and_zero]; rfl))

theorem syscall (code : BitVec 20) : Statement (.syscall code) :=
  fits (row := ⟨"syscall", 0xFC00003F, 0x0000000C⟩) (by decide) rfl
    (syscall_and 0x3F#6 0x00000#20 0x3F#6 rfl (by simp only [BitVec.and_zero]; rfl))

theorem mfhi (rd : Reg) : Statement (.mfhi rd) :=
  fits (row := ⟨"mfhi", 0xFFFF07FF, 0x00000010⟩) (by decide) rfl
    (encodeR_and 0x3F#6 0x1F#5 0x1F#5 0x00#5 0x1F#5 0x3F#6 rfl (by simp only [BitVec.and_zero]; rfl))

theorem mthi (rs : Reg) : Statement (.mthi rs) :=
  fits (row := ⟨"mthi", 0xFC1FFFFF, 0x00000011⟩) (by decide) rfl
    (encodeR_and 0x3F#6 0x00#5 0x1F#5 0x1F#5 0x1F#5 0x3F#6 rfl (by simp only [BitVec.and_zero]; rfl))

theorem mflo (rd : Reg) : Statement (.mflo rd) :=
  fits (row := ⟨"mflo", 0xFFFF07FF, 0x00000012⟩) (by decide) rfl
    (encodeR_and 0x3F#6 0x1F#5 0x1F#5 0x00#5 0x1F#5 0x3F#6 rfl (by simp only [BitVec.and_zero]; rfl))

theorem mtlo (rs : Reg) : Statement (.mtlo rs) :=
  fits (row := ⟨"mtlo", 0xFC1FFFFF, 0x00000013⟩) (by decide) rfl
    (encodeR_and 0x3F#6 0x00#5 0x1F#5 0x1F#5 0x1F#5 0x3F#6 rfl (by simp only [BitVec.and_zero]; rfl))

theorem mult (rs rt : Reg) : Statement (.mult rs rt) :=
  fits (row := ⟨"mult", 0xFC00FFFF, 0x00000018⟩) (by decide) rfl
    (encodeR_and 0x3F#6 0x00#5 0x00#5 0x1F#5 0x1F#5 0x3F#6 rfl (by simp only [BitVec.and_zero]; rfl))

theorem multu (rs rt : Reg) : Statement (.multu rs rt) :=
  fits (row := ⟨"multu", 0xFC00FFFF, 0x00000019⟩) (by decide) rfl
    (encodeR_and 0x3F#6 0x00#5 0x00#5 0x1F#5 0x1F#5 0x3F#6 rfl (by simp only [BitVec.and_zero]; rfl))

theorem div (rs rt : Reg) : Statement (.div rs rt) :=
  fits (row := ⟨"div", 0xFC00FFFF, 0x0000001A⟩) (by decide) rfl
    (encodeR_and 0x3F#6 0x00#5 0x00#5 0x1F#5 0x1F#5 0x3F#6 rfl (by simp only [BitVec.and_zero]; rfl))

theorem divu (rs rt : Reg) : Statement (.divu rs rt) :=
  fits (row := ⟨"divu", 0xFC00FFFF, 0x0000001B⟩) (by decide) rfl
    (encodeR_and 0x3F#6 0x00#5 0x00#5 0x1F#5 0x1F#5 0x3F#6 rfl (by simp only [BitVec.and_zero]; rfl))

theorem add (rd rs rt : Reg) : Statement (.add rd rs rt) :=
  fits (row := ⟨"add", 0xFC0007FF, 0x00000020⟩) (by decide) rfl
    (encodeR_and 0x3F#6 0x00#5 0x00#5 0x00#5 0x1F#5 0x3F#6 rfl (by simp only [BitVec.and_zero]; rfl))

theorem addu (rd rs rt : Reg) : Statement (.addu rd rs rt) :=
  fits (row := ⟨"addu", 0xFC0007FF, 0x00000021⟩) (by decide) rfl
    (encodeR_and 0x3F#6 0x00#5 0x00#5 0x00#5 0x1F#5 0x3F#6 rfl (by simp only [BitVec.and_zero]; rfl))

theorem sub (rd rs rt : Reg) : Statement (.sub rd rs rt) :=
  fits (row := ⟨"sub", 0xFC0007FF, 0x00000022⟩) (by decide) rfl
    (encodeR_and 0x3F#6 0x00#5 0x00#5 0x00#5 0x1F#5 0x3F#6 rfl (by simp only [BitVec.and_zero]; rfl))

theorem subu (rd rs rt : Reg) : Statement (.subu rd rs rt) :=
  fits (row := ⟨"subu", 0xFC0007FF, 0x00000023⟩) (by decide) rfl
    (encodeR_and 0x3F#6 0x00#5 0x00#5 0x00#5 0x1F#5 0x3F#6 rfl (by simp only [BitVec.and_zero]; rfl))

theorem and (rd rs rt : Reg) : Statement (.and rd rs rt) :=
  fits (row := ⟨"and", 0xFC0007FF, 0x00000024⟩) (by decide) rfl
    (encodeR_and 0x3F#6 0x00#5 0x00#5 0x00#5 0x1F#5 0x3F#6 rfl (by simp only [BitVec.and_zero]; rfl))

theorem or (rd rs rt : Reg) : Statement (.or rd rs rt) :=
  fits (row := ⟨"or", 0xFC0007FF, 0x00000025⟩) (by decide) rfl
    (encodeR_and 0x3F#6 0x00#5 0x00#5 0x00#5 0x1F#5 0x3F#6 rfl (by simp only [BitVec.and_zero]; rfl))

theorem xor (rd rs rt : Reg) : Statement (.xor rd rs rt) :=
  fits (row := ⟨"xor", 0xFC0007FF, 0x00000026⟩) (by decide) rfl
    (encodeR_and 0x3F#6 0x00#5 0x00#5 0x00#5 0x1F#5 0x3F#6 rfl (by simp only [BitVec.and_zero]; rfl))

theorem nor (rd rs rt : Reg) : Statement (.nor rd rs rt) :=
  fits (row := ⟨"nor", 0xFC0007FF, 0x00000027⟩) (by decide) rfl
    (encodeR_and 0x3F#6 0x00#5 0x00#5 0x00#5 0x1F#5 0x3F#6 rfl (by simp only [BitVec.and_zero]; rfl))

theorem slt (rd rs rt : Reg) : Statement (.slt rd rs rt) :=
  fits (row := ⟨"slt", 0xFC0007FF, 0x0000002A⟩) (by decide) rfl
    (encodeR_and 0x3F#6 0x00#5 0x00#5 0x00#5 0x1F#5 0x3F#6 rfl (by simp only [BitVec.and_zero]; rfl))

theorem sltu (rd rs rt : Reg) : Statement (.sltu rd rs rt) :=
  fits (row := ⟨"sltu", 0xFC0007FF, 0x0000002B⟩) (by decide) rfl
    (encodeR_and 0x3F#6 0x00#5 0x00#5 0x00#5 0x1F#5 0x3F#6 rfl (by simp only [BitVec.and_zero]; rfl))

theorem bltz (rs : Reg) (imm : Half) : Statement (.bltz rs imm) :=
  fits (row := ⟨"bltz", 0xFC1F0000, 0x04000000⟩) (by decide) rfl
    (encodeI_and 0x3F#6 0x00#5 0x1F#5 0x0000#16 rfl (by simp only [BitVec.and_zero]; rfl))

theorem bgez (rs : Reg) (imm : Half) : Statement (.bgez rs imm) :=
  fits (row := ⟨"bgez", 0xFC1F0000, 0x04010000⟩) (by decide) rfl
    (encodeI_and 0x3F#6 0x00#5 0x1F#5 0x0000#16 rfl (by simp only [BitVec.and_zero]; rfl))

theorem bltzal (rs : Reg) (imm : Half) : Statement (.bltzal rs imm) :=
  fits (row := ⟨"bltzal", 0xFC1F0000, 0x04100000⟩) (by decide) rfl
    (encodeI_and 0x3F#6 0x00#5 0x1F#5 0x0000#16 rfl (by simp only [BitVec.and_zero]; rfl))

theorem bgezal (rs : Reg) (imm : Half) : Statement (.bgezal rs imm) :=
  fits (row := ⟨"bgezal", 0xFC1F0000, 0x04110000⟩) (by decide) rfl
    (encodeI_and 0x3F#6 0x00#5 0x1F#5 0x0000#16 rfl (by simp only [BitVec.and_zero]; rfl))

theorem j (target : BitVec 26) : Statement (.j target) :=
  fits (row := ⟨"j", 0xFC000000, 0x08000000⟩) (by decide) rfl
    (encodeJ_and 0x3F#6 0x0000000#26 rfl (by simp only [BitVec.and_zero]; rfl))

theorem jal (target : BitVec 26) : Statement (.jal target) :=
  fits (row := ⟨"jal", 0xFC000000, 0x0C000000⟩) (by decide) rfl
    (encodeJ_and 0x3F#6 0x0000000#26 rfl (by simp only [BitVec.and_zero]; rfl))

theorem beq (rs rt : Reg) (imm : Half) : Statement (.beq rs rt imm) :=
  fits (row := ⟨"beq", 0xFC000000, 0x10000000⟩) (by decide) rfl
    (encodeI_and 0x3F#6 0x00#5 0x00#5 0x0000#16 rfl (by simp only [BitVec.and_zero]; rfl))

theorem bne (rs rt : Reg) (imm : Half) : Statement (.bne rs rt imm) :=
  fits (row := ⟨"bne", 0xFC000000, 0x14000000⟩) (by decide) rfl
    (encodeI_and 0x3F#6 0x00#5 0x00#5 0x0000#16 rfl (by simp only [BitVec.and_zero]; rfl))

theorem blez (rs : Reg) (imm : Half) : Statement (.blez rs imm) :=
  fits (row := ⟨"blez", 0xFC1F0000, 0x18000000⟩) (by decide) rfl
    (encodeI_and 0x3F#6 0x00#5 0x1F#5 0x0000#16 rfl (by simp only [BitVec.and_zero]; rfl))

theorem bgtz (rs : Reg) (imm : Half) : Statement (.bgtz rs imm) :=
  fits (row := ⟨"bgtz", 0xFC1F0000, 0x1C000000⟩) (by decide) rfl
    (encodeI_and 0x3F#6 0x00#5 0x1F#5 0x0000#16 rfl (by simp only [BitVec.and_zero]; rfl))

theorem addi (rt rs : Reg) (imm : Half) : Statement (.addi rt rs imm) :=
  fits (row := ⟨"addi", 0xFC000000, 0x20000000⟩) (by decide) rfl
    (encodeI_and 0x3F#6 0x00#5 0x00#5 0x0000#16 rfl (by simp only [BitVec.and_zero]; rfl))

theorem addiu (rt rs : Reg) (imm : Half) : Statement (.addiu rt rs imm) :=
  fits (row := ⟨"addiu", 0xFC000000, 0x24000000⟩) (by decide) rfl
    (encodeI_and 0x3F#6 0x00#5 0x00#5 0x0000#16 rfl (by simp only [BitVec.and_zero]; rfl))

theorem slti (rt rs : Reg) (imm : Half) : Statement (.slti rt rs imm) :=
  fits (row := ⟨"slti", 0xFC000000, 0x28000000⟩) (by decide) rfl
    (encodeI_and 0x3F#6 0x00#5 0x00#5 0x0000#16 rfl (by simp only [BitVec.and_zero]; rfl))

theorem sltiu (rt rs : Reg) (imm : Half) : Statement (.sltiu rt rs imm) :=
  fits (row := ⟨"sltiu", 0xFC000000, 0x2C000000⟩) (by decide) rfl
    (encodeI_and 0x3F#6 0x00#5 0x00#5 0x0000#16 rfl (by simp only [BitVec.and_zero]; rfl))

theorem andi (rt rs : Reg) (imm : Half) : Statement (.andi rt rs imm) :=
  fits (row := ⟨"andi", 0xFC000000, 0x30000000⟩) (by decide) rfl
    (encodeI_and 0x3F#6 0x00#5 0x00#5 0x0000#16 rfl (by simp only [BitVec.and_zero]; rfl))

theorem ori (rt rs : Reg) (imm : Half) : Statement (.ori rt rs imm) :=
  fits (row := ⟨"ori", 0xFC000000, 0x34000000⟩) (by decide) rfl
    (encodeI_and 0x3F#6 0x00#5 0x00#5 0x0000#16 rfl (by simp only [BitVec.and_zero]; rfl))

theorem xori (rt rs : Reg) (imm : Half) : Statement (.xori rt rs imm) :=
  fits (row := ⟨"xori", 0xFC000000, 0x38000000⟩) (by decide) rfl
    (encodeI_and 0x3F#6 0x00#5 0x00#5 0x0000#16 rfl (by simp only [BitVec.and_zero]; rfl))

theorem lui (rt : Reg) (imm : Half) : Statement (.lui rt imm) :=
  fits (row := ⟨"lui", 0xFFE00000, 0x3C000000⟩) (by decide) rfl
    (encodeI_and 0x3F#6 0x1F#5 0x00#5 0x0000#16 rfl (by simp only [BitVec.and_zero]; rfl))

theorem mfc0 (rt : Reg) (cs : Cp0Reg) : Statement (.mfc0 rt cs) :=
  fits (row := ⟨"mfc0", 0xFFE007FF, 0x40000000⟩) (by decide) rfl
    (encodeCop0_and 0x3F#6 0x1F#5 0x00#5 0x00#5 0x7FF#11 rfl (by simp only [BitVec.and_zero]; rfl))

theorem mtc0 (rt : Reg) (cd : Cp0Reg) : Statement (.mtc0 rt cd) :=
  fits (row := ⟨"mtc0", 0xFFE007FF, 0x40800000⟩) (by decide) rfl
    (encodeCop0_and 0x3F#6 0x1F#5 0x00#5 0x00#5 0x7FF#11 rfl (by simp only [BitVec.and_zero]; rfl))

theorem rfe : Statement (.rfe) :=
  fits (row := ⟨"rfe", 0xFFFFFFFF, 0x42000010⟩) (by decide) rfl (by decide)

theorem lb (rt rs : Reg) (imm : Half) : Statement (.lb rt rs imm) :=
  fits (row := ⟨"lb", 0xFC000000, 0x80000000⟩) (by decide) rfl
    (encodeI_and 0x3F#6 0x00#5 0x00#5 0x0000#16 rfl (by simp only [BitVec.and_zero]; rfl))

theorem lh (rt rs : Reg) (imm : Half) : Statement (.lh rt rs imm) :=
  fits (row := ⟨"lh", 0xFC000000, 0x84000000⟩) (by decide) rfl
    (encodeI_and 0x3F#6 0x00#5 0x00#5 0x0000#16 rfl (by simp only [BitVec.and_zero]; rfl))

theorem lwl (rt rs : Reg) (imm : Half) : Statement (.lwl rt rs imm) :=
  fits (row := ⟨"lwl", 0xFC000000, 0x88000000⟩) (by decide) rfl
    (encodeI_and 0x3F#6 0x00#5 0x00#5 0x0000#16 rfl (by simp only [BitVec.and_zero]; rfl))

theorem lw (rt rs : Reg) (imm : Half) : Statement (.lw rt rs imm) :=
  fits (row := ⟨"lw", 0xFC000000, 0x8C000000⟩) (by decide) rfl
    (encodeI_and 0x3F#6 0x00#5 0x00#5 0x0000#16 rfl (by simp only [BitVec.and_zero]; rfl))

theorem lbu (rt rs : Reg) (imm : Half) : Statement (.lbu rt rs imm) :=
  fits (row := ⟨"lbu", 0xFC000000, 0x90000000⟩) (by decide) rfl
    (encodeI_and 0x3F#6 0x00#5 0x00#5 0x0000#16 rfl (by simp only [BitVec.and_zero]; rfl))

theorem lhu (rt rs : Reg) (imm : Half) : Statement (.lhu rt rs imm) :=
  fits (row := ⟨"lhu", 0xFC000000, 0x94000000⟩) (by decide) rfl
    (encodeI_and 0x3F#6 0x00#5 0x00#5 0x0000#16 rfl (by simp only [BitVec.and_zero]; rfl))

theorem lwr (rt rs : Reg) (imm : Half) : Statement (.lwr rt rs imm) :=
  fits (row := ⟨"lwr", 0xFC000000, 0x98000000⟩) (by decide) rfl
    (encodeI_and 0x3F#6 0x00#5 0x00#5 0x0000#16 rfl (by simp only [BitVec.and_zero]; rfl))

theorem sb (rt rs : Reg) (imm : Half) : Statement (.sb rt rs imm) :=
  fits (row := ⟨"sb", 0xFC000000, 0xA0000000⟩) (by decide) rfl
    (encodeI_and 0x3F#6 0x00#5 0x00#5 0x0000#16 rfl (by simp only [BitVec.and_zero]; rfl))

theorem sh (rt rs : Reg) (imm : Half) : Statement (.sh rt rs imm) :=
  fits (row := ⟨"sh", 0xFC000000, 0xA4000000⟩) (by decide) rfl
    (encodeI_and 0x3F#6 0x00#5 0x00#5 0x0000#16 rfl (by simp only [BitVec.and_zero]; rfl))

theorem swl (rt rs : Reg) (imm : Half) : Statement (.swl rt rs imm) :=
  fits (row := ⟨"swl", 0xFC000000, 0xA8000000⟩) (by decide) rfl
    (encodeI_and 0x3F#6 0x00#5 0x00#5 0x0000#16 rfl (by simp only [BitVec.and_zero]; rfl))

theorem sw (rt rs : Reg) (imm : Half) : Statement (.sw rt rs imm) :=
  fits (row := ⟨"sw", 0xFC000000, 0xAC000000⟩) (by decide) rfl
    (encodeI_and 0x3F#6 0x00#5 0x00#5 0x0000#16 rfl (by simp only [BitVec.and_zero]; rfl))

theorem swr (rt rs : Reg) (imm : Half) : Statement (.swr rt rs imm) :=
  fits (row := ⟨"swr", 0xFC000000, 0xB8000000⟩) (by decide) rfl
    (encodeI_and 0x3F#6 0x00#5 0x00#5 0x0000#16 rfl (by simp only [BitVec.and_zero]; rfl))

end Sys2Proof.Laws.EncodingFitsRow
end

