-- ==== Sys2Proof/Laws/Pseudo.lean ====
section
/-! SUPPORT. Blocks of instructions and the operand `src2`: how `runBlock` goes on and stops, and what the assembler's
`li $at, k` of an immediate `src2` is and leaves (`30_encoding.md` R128, `43_constant.md` R221). -/

namespace Sys2Proof.Machine

/-! ### `runBlock` -/

theorem runBlock_zero (base : Word) (code : List Instr) (s : State) : runBlock base code 0 s = .next s := rfl

theorem blockIndex {base pc : Word} {k : Nat} (hpc : pc = base + BitVec.ofNat 32 (4 * k)) (hk : k < 2 ^ 30) :
    (pc - base).toNat / 4 = k := by
  rw [hpc, BitVec.add_comm, BitVec.add_sub_cancel, BitVec.toNat_ofNat, Nat.mod_eq_of_lt (by omega)]
  omega

/-- At instruction `k` of the block, which completes: the block goes on from the next state. -/
theorem runBlock_next {base : Word} {code : List Instr} {n k : Nat} {i : Instr} {s t : State}
    (hpc : s.pc = base + BitVec.ofNat 32 (4 * k)) (hk : k < 2 ^ 30) (hi : code[k]? = some i)
    (he : exec i s = .next t) : runBlock base code (n + 1) s = runBlock base code n t := by
  rw [runBlock, blockIndex hpc hk, hi]
  simp only [he]

/-- Past the last instruction of the block: it has been left. -/
theorem runBlock_done {base : Word} {code : List Instr} {n k : Nat} {s : State}
    (hpc : s.pc = base + BitVec.ofNat 32 (4 * k)) (hk : k < 2 ^ 30) (hi : code[k]? = none) :
    runBlock base code n s = .next s := by
  cases n with
  | zero => rfl
  | succ n => rw [runBlock, blockIndex hpc hk, hi]

/-! ### `src2` -/

@[simp] theorem src2Value_reg (s : State) (r : Reg) : src2Value s (.reg r) = s.reg r := rfl

@[simp] theorem src2Value_imm (s : State) (k : Half) : src2Value s (.imm k) = k.signExtend 32 := rfl

@[simp] theorem withSrc2_reg (s : State) (r : Reg) : withSrc2 s (.reg r) = s := rfl

@[simp] theorem withSrc2_imm (s : State) (k : Half) : withSrc2 s (.imm k) = s.setReg 1#5 (k.signExtend 32) := rfl

/-- With `src2` in place, the register that stands for it holds its value. -/
theorem withSrc2_src2Reg (s : State) (c : Src2) : (withSrc2 s c).reg (src2Reg c) = src2Value s c := by
  cases c with
  | reg r => rfl
  | imm k => exact State.setReg_reg_same _ _ (by decide)

/-- Putting `src2` in place changes no register but `$at`. -/
theorem withSrc2_reg_other (s : State) (c : Src2) {r : Reg} (hr : r ≠ 1#5) : (withSrc2 s c).reg r = s.reg r := by
  cases c with
  | reg _ => rfl
  | imm k => exact State.setReg_reg_other _ _ hr

/-- The low half of a sign-extended immediate is the immediate. -/
theorem sextHalf_low (k : Half) : (sextHalf k).extractLsb' 0 16 = k := by
  apply BitVec.eq_of_getLsbD_eq
  intro i hi
  rw [BitVec.getLsbD_extractLsb', sextHalf, BitVec.getLsbD_signExtend]
  simp only [Nat.zero_add, hi, show i < 32 by omega, decide_true, Bool.true_and, if_true]

/-- Bits 31:15 of a sign-extended immediate are its sign. -/
theorem sextHalf_sign (k : Half) : (sextHalf k).extractLsb' 15 17 = if k.msb then 0x1FFFF#17 else 0#17 := by
  apply BitVec.eq_of_getLsbD_eq
  intro i hi
  have hb : (sextHalf k).getLsbD (15 + i) = k.msb := by
    rw [sextHalf, BitVec.getLsbD_signExtend, BitVec.msb_eq_getLsbD_last]
    by_cases h : i = 0
    · simp [h]
    · simp [show 15 + i < 32 by omega, show ¬15 + i < 16 by omega]
  rw [BitVec.getLsbD_extractLsb', hb]
  have ones : (0x1FFFF#17).getLsbD i = true := by
    rw [show 0x1FFFF#17 = BitVec.allOnes 17 from rfl, BitVec.getLsbD_allOnes]; simpa using hi
  cases k.msb <;> simp [hi, ones]

/-- Bits 31:16 of a sign-extended immediate are its sign. -/
theorem sextHalf_high (k : Half) : (sextHalf k).extractLsb' 16 16 = if k.msb then 0xFFFF#16 else 0#16 := by
  have h : (sextHalf k).extractLsb' 16 16 = ((sextHalf k).extractLsb' 15 17).extractLsb' 1 16 := by
    apply BitVec.eq_of_getLsbD_eq
    intro i hi
    simp [hi, show 1 + i < 17 by omega, show 15 + (1 + i) = 16 + i by omega]
  rw [h, sextHalf_sign]
  cases k.msb <;> rfl

/-- An immediate that is not negative is the same zero-extended. -/
theorem zextHalf_eq_sextHalf {k : Half} (h : k.msb = false) : zextHalf k = sextHalf k :=
  (BitVec.signExtend_eq_setWidth_of_msb_false h).symm

/-- A 16-bit signed immediate takes one instruction, which leaves its value in `$at`. -/
theorem src2Code_imm (k : Half) :
    ∃ i, src2Code (.imm k) = [i] ∧ ∀ s : State, exec i s = .next (withSrc2 s (.imm k)).advance := by
  rw [src2Code, liCode, sextHalf_high, sextHalf_sign, sextHalf_low]
  cases h : k.msb with
  | false =>
    refine ⟨_, rfl, fun s => ?_⟩
    show execOri _ _ _ _ = _
    rw [execOri, Reg.zero, State.reg_zero, zextHalf_eq_sextHalf h, BitVec.zero_or]; rfl
  | true =>
    refine ⟨_, rfl, fun s => ?_⟩
    show execAddiu _ _ _ _ = _
    rw [execAddiu, Reg.zero, State.reg_zero, BitVec.zero_add]; rfl

/-- The code that puts `src2` in place has `src2Size` instructions. -/
theorem src2Code_length (c : Src2) : (src2Code c).length = src2Size c := by
  cases c with
  | reg _ => rfl
  | imm k =>
    obtain ⟨i, h, -⟩ := src2Code_imm k
    rw [h]; rfl

end Sys2Proof.Machine
end

