-- ==== Sys2Proof/Tests/Slice0.lean ====
section
/-! SUPPORT. The model's own tests. Expected values are those of `95_test_vectors.md` (sections 2.1 to 2.13) or are
written out from the encodings of `30_encoding.md` R120; the witnesses show that the premises of each statement can
be met, clause by clause. -/

namespace Sys2Proof.Tests

open Sys2Proof.Machine

/-! ### Helpers -/

/-- The reset state with these registers. -/
def withRegs (regs : List (Reg × Word)) : State :=
  regs.foldl (fun s p => s.setReg p.1 p.2) State.reset

/-- That, in byte order `e`, with `bytes` from 0x10010000 on. -/
def withData (e : Endian) (regs : List (Reg × Word)) (bytes : List Byte) : State :=
  { withRegs regs with
    mem := (bytes.zipIdx 0x10010000).map fun p => (p.2, p.1)
    par := { Params.default with endian := e } }

/-- The data of section 2.8 and of sections 2.8, 2.9. -/
def loadBytes : List Byte := [0x80, 0x7F, 0xFF, 0x01, 0xAA, 0xBB, 0xCC, 0xDD]

def storeBytes : List Byte := [0x11, 0x22, 0x33, 0x44]

/-- `Status` and `Cause` as a state may hold them; `epc` and `badVAddr` are set apart from zero. -/
def withStatus (status : Word) (cause : Cause) (regs : List (Reg × Word)) : State :=
  { withRegs regs with
    status := Status.ofWord status
    cause := cause
    epc := 0x00400123#32
    badVAddr := 0x10010001#32 }

/-- `IP[0]` pending. -/
def softwareRequest : Cause := { bd := 0, ce := 0, ipExt := 0, ipSw := 1, excCode := 0 }

/-- No memory at 0x10010003. -/
def withHole : State :=
  { withData .little [(1, 0x10010000)] storeBytes with
    par := { Params.default with unbacked := [⟨0x10010003, 0x10010003⟩] } }

/-- The state after one step that fetches `w`. -/
def ran (w : Word) (s : State) : Option State :=
  match step (s.setWord s.pc w) with
  | .next t => some t
  | _ => none

/-- The state after the instruction alone. -/
def done (i : Instr) (s : State) : Option State :=
  match exec i s with
  | .next t => some t
  | _ => none

/-- General register `r` after the step. -/
def gives (w : Word) (s : State) (r : Reg) : Option Word := (ran w s).map (·.reg r)

/-- `hi` and `lo` after the step. -/
def hiLo (w : Word) (s : State) : Option (Word × Word) := (ran w s).map fun t => (t.hi, t.lo)

/-- `pc` and register 31 after the step. -/
def goes (w : Word) (s : State) : Option (Word × Word) := (ran w s).map fun t => (t.pc, t.reg 31)

/-- `pc`, `EPC` and `ExcCode` after the step. -/
def enters (w : Word) (s : State) : Option (Word × Word × BitVec 4) :=
  (ran w s).map fun t => (t.pc, t.epc, t.cause.excCode)

/-- `ExcCode` and `BadVAddr` after the step. -/
def badAddress (w : Word) (s : State) : Option (BitVec 4 × Word) :=
  (ran w s).map fun t => (t.cause.excCode, t.badVAddr)

/-- The four bytes at 0x10010000 after the step. -/
def leaves (w : Word) (s : State) : Option (List Byte) :=
  (ran w s).map fun t => [0, 1, 2, 3].map fun k => t.byteAt (0x10010000#32 + k)

/-- The state bits of `Status` and of `Cause` after the step. -/
def statusCause (w : Word) (s : State) : Option (Word × Word) :=
  (ran w s).map fun t => (t.status.word 0, t.cause.word 0)

/-! ### Well-formedness -/

theorem test_wellFormed_refuses_mfc0_named : (Instr.mfc0 1 (.other 12)).wellFormed = false := by decide

theorem test_wellFormed_refuses_mtc0_named :
    ∀ n ∈ [8#5, 12#5, 13#5, 14#5], (Instr.mtc0 1 (.other n)).wellFormed = false := by decide

theorem test_wellFormed_admits_other : (Instr.mfc0 1 (.other 2)).wellFormed = true := by decide

/-! ### Decoding: every constructor, its word written out field by field from `30_encoding.md` R120 with `rs` 1, `rt` 2,
`rd` 3, `shamt` 4 -/

theorem test_decode_shifts :
    decode (0b000000#6 ++ 0b00000#5 ++ 0b00010#5 ++ 0b00011#5 ++ 0b00100#5 ++ 0b000000#6) = .ok (.sll 3#5 2#5 4#5) ∧
    decode (0b000000#6 ++ 0b00000#5 ++ 0b00010#5 ++ 0b00011#5 ++ 0b00100#5 ++ 0b000010#6) = .ok (.srl 3#5 2#5 4#5) ∧
    decode (0b000000#6 ++ 0b00000#5 ++ 0b00010#5 ++ 0b00011#5 ++ 0b00100#5 ++ 0b000011#6) = .ok (.sra 3#5 2#5 4#5) ∧
    decode (0b000000#6 ++ 0b00001#5 ++ 0b00010#5 ++ 0b00011#5 ++ 0b00000#5 ++ 0b000100#6) = .ok (.sllv 3#5 2#5 1#5) ∧
    decode (0b000000#6 ++ 0b00001#5 ++ 0b00010#5 ++ 0b00011#5 ++ 0b00000#5 ++ 0b000110#6) = .ok (.srlv 3#5 2#5 1#5) ∧
    decode (0b000000#6 ++ 0b00001#5 ++ 0b00010#5 ++ 0b00011#5 ++ 0b00000#5 ++ 0b000111#6) = .ok (.srav 3#5 2#5 1#5) := by decide

theorem test_decode_hi_lo :
    decode (0b000000#6 ++ 0b00000#5 ++ 0b00000#5 ++ 0b00011#5 ++ 0b00000#5 ++ 0b010000#6) = .ok (.mfhi 3#5) ∧
    decode (0b000000#6 ++ 0b00001#5 ++ 0b00000#5 ++ 0b00000#5 ++ 0b00000#5 ++ 0b010001#6) = .ok (.mthi 1#5) ∧
    decode (0b000000#6 ++ 0b00000#5 ++ 0b00000#5 ++ 0b00011#5 ++ 0b00000#5 ++ 0b010010#6) = .ok (.mflo 3#5) ∧
    decode (0b000000#6 ++ 0b00001#5 ++ 0b00000#5 ++ 0b00000#5 ++ 0b00000#5 ++ 0b010011#6) = .ok (.mtlo 1#5) ∧
    decode (0b000000#6 ++ 0b00001#5 ++ 0b00010#5 ++ 0b00000#5 ++ 0b00000#5 ++ 0b011000#6) = .ok (.mult 1#5 2#5) ∧
    decode (0b000000#6 ++ 0b00001#5 ++ 0b00010#5 ++ 0b00000#5 ++ 0b00000#5 ++ 0b011001#6) = .ok (.multu 1#5 2#5) ∧
    decode (0b000000#6 ++ 0b00001#5 ++ 0b00010#5 ++ 0b00000#5 ++ 0b00000#5 ++ 0b011010#6) = .ok (.div 1#5 2#5) ∧
    decode (0b000000#6 ++ 0b00001#5 ++ 0b00010#5 ++ 0b00000#5 ++ 0b00000#5 ++ 0b011011#6) = .ok (.divu 1#5 2#5) := by
  decide

theorem test_decode_arithmetic :
    decode (0b000000#6 ++ 0b00001#5 ++ 0b00010#5 ++ 0b00011#5 ++ 0b00000#5 ++ 0b100000#6) = .ok (.add 3#5 1#5 2#5) ∧
    decode (0b000000#6 ++ 0b00001#5 ++ 0b00010#5 ++ 0b00011#5 ++ 0b00000#5 ++ 0b100001#6) = .ok (.addu 3#5 1#5 2#5) ∧
    decode (0b000000#6 ++ 0b00001#5 ++ 0b00010#5 ++ 0b00011#5 ++ 0b00000#5 ++ 0b100010#6) = .ok (.sub 3#5 1#5 2#5) ∧
    decode (0b000000#6 ++ 0b00001#5 ++ 0b00010#5 ++ 0b00011#5 ++ 0b00000#5 ++ 0b100011#6) = .ok (.subu 3#5 1#5 2#5) ∧
    decode (0b001000#6 ++ 0b00001#5 ++ 0b00010#5 ++ 0b1000000000000001#16) = .ok (.addi 2#5 1#5 0x8001#16) ∧
    decode (0b001001#6 ++ 0b00001#5 ++ 0b00010#5 ++ 0b1000000000000001#16) = .ok (.addiu 2#5 1#5 0x8001#16) := by
  decide

theorem test_decode_logic_and_constant :
    decode (0b000000#6 ++ 0b00001#5 ++ 0b00010#5 ++ 0b00011#5 ++ 0b00000#5 ++ 0b100100#6) = .ok (.and 3#5 1#5 2#5) ∧
    decode (0b000000#6 ++ 0b00001#5 ++ 0b00010#5 ++ 0b00011#5 ++ 0b00000#5 ++ 0b100101#6) = .ok (.or 3#5 1#5 2#5) ∧
    decode (0b000000#6 ++ 0b00001#5 ++ 0b00010#5 ++ 0b00011#5 ++ 0b00000#5 ++ 0b100110#6) = .ok (.xor 3#5 1#5 2#5) ∧
    decode (0b000000#6 ++ 0b00001#5 ++ 0b00010#5 ++ 0b00011#5 ++ 0b00000#5 ++ 0b100111#6) = .ok (.nor 3#5 1#5 2#5) ∧
    decode (0b001100#6 ++ 0b00001#5 ++ 0b00010#5 ++ 0b1000000000000001#16) = .ok (.andi 2#5 1#5 0x8001#16) ∧
    decode (0b001101#6 ++ 0b00001#5 ++ 0b00010#5 ++ 0b1000000000000001#16) = .ok (.ori 2#5 1#5 0x8001#16) ∧
    decode (0b001110#6 ++ 0b00001#5 ++ 0b00010#5 ++ 0b1000000000000001#16) = .ok (.xori 2#5 1#5 0x8001#16) ∧
    decode (0b001111#6 ++ 0b00000#5 ++ 0b00010#5 ++ 0b1000000000000001#16) = .ok (.lui 2#5 0x8001#16) := by decide

theorem test_decode_comparison :
    decode (0b000000#6 ++ 0b00001#5 ++ 0b00010#5 ++ 0b00011#5 ++ 0b00000#5 ++ 0b101010#6) = .ok (.slt 3#5 1#5 2#5) ∧
    decode (0b000000#6 ++ 0b00001#5 ++ 0b00010#5 ++ 0b00011#5 ++ 0b00000#5 ++ 0b101011#6) = .ok (.sltu 3#5 1#5 2#5) ∧
    decode (0b001010#6 ++ 0b00001#5 ++ 0b00010#5 ++ 0b1000000000000001#16) = .ok (.slti 2#5 1#5 0x8001#16) ∧
    decode (0b001011#6 ++ 0b00001#5 ++ 0b00010#5 ++ 0b1000000000000001#16) = .ok (.sltiu 2#5 1#5 0x8001#16) := by
  decide

theorem test_decode_branches :
    decode (0b000001#6 ++ 0b00001#5 ++ 0b00000#5 ++ 0b1000000000000001#16) = .ok (.bltz 1#5 0x8001#16) ∧
    decode (0b000001#6 ++ 0b00001#5 ++ 0b00001#5 ++ 0b1000000000000001#16) = .ok (.bgez 1#5 0x8001#16) ∧
    decode (0b000001#6 ++ 0b00001#5 ++ 0b10000#5 ++ 0b1000000000000001#16) = .ok (.bltzal 1#5 0x8001#16) ∧
    decode (0b000001#6 ++ 0b00001#5 ++ 0b10001#5 ++ 0b1000000000000001#16) = .ok (.bgezal 1#5 0x8001#16) ∧
    decode (0b000100#6 ++ 0b00001#5 ++ 0b00010#5 ++ 0b1000000000000001#16) = .ok (.beq 1#5 2#5 0x8001#16) ∧
    decode (0b000101#6 ++ 0b00001#5 ++ 0b00010#5 ++ 0b1000000000000001#16) = .ok (.bne 1#5 2#5 0x8001#16) ∧
    decode (0b000110#6 ++ 0b00001#5 ++ 0b00000#5 ++ 0b1000000000000001#16) = .ok (.blez 1#5 0x8001#16) ∧
    decode (0b000111#6 ++ 0b00001#5 ++ 0b00000#5 ++ 0b1000000000000001#16) = .ok (.bgtz 1#5 0x8001#16) := by decide

theorem test_decode_jumps :
    decode (0b000010#6 ++ 0b10000000000000000000000001#26) = .ok (.j 0x2000001#26) ∧
    decode (0b000011#6 ++ 0b10000000000000000000000001#26) = .ok (.jal 0x2000001#26) ∧
    decode (0b000000#6 ++ 0b00001#5 ++ 0b00000#5 ++ 0b00000#5 ++ 0b00000#5 ++ 0b001000#6) = .ok (.jr 1#5) ∧
    decode (0b000000#6 ++ 0b00001#5 ++ 0b00000#5 ++ 0b00011#5 ++ 0b00000#5 ++ 0b001001#6) = .ok (.jalr 3#5 1#5) := by
  decide

theorem test_decode_loads :
    decode (0b100000#6 ++ 0b00001#5 ++ 0b00010#5 ++ 0b1000000000000001#16) = .ok (.lb 2#5 1#5 0x8001#16) ∧
    decode (0b100001#6 ++ 0b00001#5 ++ 0b00010#5 ++ 0b1000000000000001#16) = .ok (.lh 2#5 1#5 0x8001#16) ∧
    decode (0b100010#6 ++ 0b00001#5 ++ 0b00010#5 ++ 0b1000000000000001#16) = .ok (.lwl 2#5 1#5 0x8001#16) ∧
    decode (0b100011#6 ++ 0b00001#5 ++ 0b00010#5 ++ 0b1000000000000001#16) = .ok (.lw 2#5 1#5 0x8001#16) ∧
    decode (0b100100#6 ++ 0b00001#5 ++ 0b00010#5 ++ 0b1000000000000001#16) = .ok (.lbu 2#5 1#5 0x8001#16) ∧
    decode (0b100101#6 ++ 0b00001#5 ++ 0b00010#5 ++ 0b1000000000000001#16) = .ok (.lhu 2#5 1#5 0x8001#16) ∧
    decode (0b100110#6 ++ 0b00001#5 ++ 0b00010#5 ++ 0b1000000000000001#16) = .ok (.lwr 2#5 1#5 0x8001#16) := by decide

theorem test_decode_stores :
    decode (0b101000#6 ++ 0b00001#5 ++ 0b00010#5 ++ 0b1000000000000001#16) = .ok (.sb 2#5 1#5 0x8001#16) ∧
    decode (0b101001#6 ++ 0b00001#5 ++ 0b00010#5 ++ 0b1000000000000001#16) = .ok (.sh 2#5 1#5 0x8001#16) ∧
    decode (0b101010#6 ++ 0b00001#5 ++ 0b00010#5 ++ 0b1000000000000001#16) = .ok (.swl 2#5 1#5 0x8001#16) ∧
    decode (0b101011#6 ++ 0b00001#5 ++ 0b00010#5 ++ 0b1000000000000001#16) = .ok (.sw 2#5 1#5 0x8001#16) ∧
    decode (0b101110#6 ++ 0b00001#5 ++ 0b00010#5 ++ 0b1000000000000001#16) = .ok (.swr 2#5 1#5 0x8001#16) := by decide

theorem test_decode_system :
    decode (0b010000#6 ++ 0b00000#5 ++ 0b00010#5 ++ 0b01101#5 ++ 0b00000000000#11) = .ok (.mfc0 2#5 .cause) ∧
    decode (0b010000#6 ++ 0b00100#5 ++ 0b00010#5 ++ 0b01110#5 ++ 0b00000000000#11) = .ok (.mtc0 2#5 .epc) ∧
    decode (0b010000#6 ++ 0b1#1 ++ 0b0000000000000000000#19 ++ 0b010000#6) = .ok .rfe ∧
    decode (0b000000#6 ++ 0b10000000000000000001#20 ++ 0b001100#6) = .ok (.syscall 0x80001#20) := by decide

/-! The words that are no instruction: `95_test_vectors.md` section 2.13. -/

theorem test_decode_refuses_reserved :
    [0x70221802#32, 0x0000000D, 0x0000000F, 0x00000001, 0x0000000E, 0x00000014, 0x0000001C, 0x00000028,
        0x0000003F, 0x04220000, 0x04020000, 0x04120000, 0x42000018, 0x42000011, 0x40426000, 0x44000000, 0x48000000,
        0x4C000000, 0x50000000, 0xBC000000, 0xC0000000, 0xC4000000, 0xE0000000, 0xFFFFFFFF].all
      (fun w => (decode w).toOption.isNone) = true := by decide

theorem test_decode_is_strict :
    [0x00200000#32, 0x00221860, 0x00221861, 0x03E00808, 0x00410809, 0x0022081A, 0x00201010, 0x3C220001,
        0x18210000, 0x1C010000, 0x40026001].all (fun w => decide (decode w = .error .unusedFieldNotZero)) = true := by
  decide

theorem test_decodeTableWord : decodeTableWord 32 0x00831004 = some (.sllv 2 3 4) := by decide

theorem test_fetch_word_runs_first :
    (match step (State.reset.withFetchWord 32 0x3C028000) with
      | .next t => some (t.reg 2)
      | _ => none) = some 0x80000000 := by decide

/-! ### Steps -/

/-! Arithmetic: `95_test_vectors.md` section 2.1. -/

theorem test_add_overflow :
    enters 0x00221820 (withRegs [(1, 0x7FFFFFFF), (2, 1), (3, 0xAAAA5555)]) = some (0x80000080, 0x00400000, 12) ∧
    gives 0x00221820 (withRegs [(1, 0x7FFFFFFF), (2, 1), (3, 0xAAAA5555)]) 3 = some 0xAAAA5555 := by decide
theorem test_add : gives 0x00221820 (withRegs [(1, 0x7FFFFFFF), (2, 0xFFFFFFFF)]) 3 = some 0x7FFFFFFE := by decide
theorem test_addu_wraps : gives 0x00221821 (withRegs [(1, 0x7FFFFFFF), (2, 1)]) 3 = some 0x80000000 := by decide
theorem test_addi_overflow :
    enters 0x2022FFFF (withRegs [(1, 0x80000000), (2, 9)]) = some (0x80000080, 0x00400000, 12) ∧
    gives 0x2022FFFF (withRegs [(1, 0x80000000), (2, 9)]) 2 = some 9 := by decide
theorem test_addi : gives 0x20227FFF (withRegs [(1, 0x7FFF8000)]) 2 = some 0x7FFFFFFF := by decide
theorem test_addiu_sign_extends : gives 0x24228000 State.reset 2 = some 0xFFFF8000 := by decide
theorem test_sub_overflow :
    enters 0x00221822 (withRegs [(2, 0x80000000), (3, 9)]) = some (0x80000080, 0x00400000, 12) ∧
    gives 0x00221822 (withRegs [(2, 0x80000000), (3, 9)]) 3 = some 9 := by decide
theorem test_sub : gives 0x00221822 (withRegs [(1, 5), (2, 7)]) 3 = some 0xFFFFFFFE := by decide
theorem test_subu_wraps : gives 0x00221823 (withRegs [(1, 0x80000000), (2, 1)]) 3 = some 0x7FFFFFFF := by decide
theorem test_div_truncates :
    hiLo 0x0022001A (withRegs [(1, 0xFFFFFFF9), (2, 3)]) = some (0xFFFFFFFF, 0xFFFFFFFE) := by decide
theorem test_div_most_negative :
    hiLo 0x0022001A (withRegs [(1, 0x80000000), (2, 0xFFFFFFFF)]) = some (0x00000000, 0x80000000) := by decide
theorem test_divu : hiLo 0x0022001B (withRegs [(1, 0xFFFFFFF9), (2, 3)]) = some (0x00000000, 0x55555553) := by decide
theorem test_divu_by_zero_goes_on :
    (ran 0x0022001B (withRegs [(1, 7)])).map (·.pc) = some 0x00400004 := by decide
theorem test_mult :
    hiLo 0x00220018 (withRegs [(1, 0x80000000), (2, 0x7FFFFFFF)]) = some (0xC0000000, 0x80000000) := by decide
theorem test_multu : hiLo 0x00220019 (withRegs [(1, 0xFFFFFFF9), (2, 3)]) = some (0x00000002, 0xFFFFFFEB) := by decide

/-! Shifts: section 2.2. -/

theorem test_sll : gives 0x000317C0 (withRegs [(3, 0x80000001)]) 2 = some 0x80000000 := by decide
theorem test_srl : gives 0x00031042 (withRegs [(3, 0x80000001)]) 2 = some 0x40000000 := by decide
theorem test_sra : gives 0x00031043 (withRegs [(3, 0x80000001)]) 2 = some 0xC0000000 := by decide
theorem test_sllv_counts_five_bits :
    gives 0x00831004 (withRegs [(3, 0x80000010), (4, 0x21)]) 2 = some 0x00000020 := by decide
theorem test_sllv_distance_is_destination :
    gives 0x00431004 (withRegs [(2, 8), (3, 0xFF)]) 2 = some 0x0000FF00 := by decide
theorem test_srlv : gives 0x00831006 (withRegs [(3, 0x80000010), (4, 4)]) 2 = some 0x08000001 := by decide
theorem test_srav : gives 0x00831007 (withRegs [(3, 0x80000010), (4, 0xFFFFFFFF)]) 2 = some 0xFFFFFFFF := by decide

/-! Logic, constants and comparison: sections 2.3 to 2.5. -/

theorem test_and : gives 0x00221824 (withRegs [(1, 0xFF00FF00), (2, 0x0FF00FF0)]) 3 = some 0x0F000F00 := by decide
theorem test_or : gives 0x00221825 (withRegs [(1, 0xFF00FF00), (2, 0x0FF00FF0)]) 3 = some 0xFFF0FFF0 := by decide
theorem test_xor : gives 0x00221826 (withRegs [(1, 0xFF00FF00), (2, 0x0FF00FF0)]) 3 = some 0xF0F0F0F0 := by decide
theorem test_nor : gives 0x00221827 (withRegs [(1, 0xFF00FF00), (2, 0x0FF00FF0)]) 3 = some 0x000F000F := by decide
theorem test_lui : gives 0x3C028000 (withRegs [(2, 0xFFFFFFFF)]) 2 = some 0x80000000 := by decide
theorem test_slt : gives 0x0022182A (withRegs [(1, 0x80000000), (2, 0x7FFFFFFF)]) 3 = some 1 := by decide
theorem test_sltu : gives 0x0022182B (withRegs [(1, 0x80000000), (2, 0x7FFFFFFF)]) 3 = some 0 := by decide
theorem test_slti : gives 0x28228000 (withRegs [(1, 0x00008000)]) 2 = some 0 := by decide
theorem test_sltiu : gives 0x2C228000 (withRegs [(1, 0x00008000)]) 2 = some 1 := by decide
theorem test_andi : gives 0x3022FFFF (withRegs [(1, 0x12345678)]) 2 = some 0x00005678 := by decide
theorem test_ori : gives 0x34228000 (withRegs [(1, 0xFFFF0000)]) 2 = some 0xFFFF8000 := by decide
theorem test_xori : gives 0x3822FFFF (withRegs [(1, 0x12345678)]) 2 = some 0x1234A987 := by decide
theorem test_write_to_register_0_discarded : gives 0x00220020 (withRegs [(1, 5), (2, 6)]) 0 = some 0 := by decide

/-! Branches and jumps: sections 2.6 and 2.7. `goes` is the new `pc` and register 31. -/

theorem test_beq_taken : goes 0x10220003 (withRegs [(1, 5), (2, 5)]) = some (0x00400010, 0) := by decide
theorem test_beq_wraps : goes 0x1000FFFE (State.reset.setPc 0x00000000) = some (0xFFFFFFFC, 0) := by decide
theorem test_bne_taken : goes 0x14220003 (withRegs [(1, 5), (2, 6)]) = some (0x00400010, 0) := by decide
theorem test_bne_not_taken : goes 0x14220003 (withRegs [(1, 5), (2, 5)]) = some (0x00400004, 0) := by decide
theorem test_bgez_zero : goes 0x04210004 State.reset = some (0x00400014, 0) := by decide
theorem test_bgtz_zero : goes 0x1C200004 State.reset = some (0x00400004, 0) := by decide
theorem test_blez_negative : goes 0x18200004 (withRegs [(1, 0x80000000)]) = some (0x00400014, 0) := by decide
theorem test_bltz_zero : goes 0x04200004 State.reset = some (0x00400004, 0) := by decide
theorem test_bgezal_links_untaken :
    goes 0x04310004 (withRegs [(1, 0xFFFFFFFF), (31, 0x11111111)]) = some (0x00400004, 0x00400004) := by decide
theorem test_bgezal_old_ra :
    goes 0x07F10004 (withRegs [(31, 0x80000000)]) = some (0x00400004, 0x00400004) := by decide
theorem test_bltzal_taken : goes 0x04300004 (withRegs [(1, 0xFFFFFFFF)]) = some (0x00400014, 0x00400004) := by decide
theorem test_bltzal_old_ra :
    goes 0x07F00004 (withRegs [(31, 0x80000000)]) = some (0x00400014, 0x00400004) := by decide
theorem test_j_upper_bits :
    goes 0x08000000 ((withRegs [(31, 0x11111111)]).setPc 0x0FFFFFFC) = some (0x10000000, 0x11111111) := by decide
theorem test_jal_link_wraps :
    goes 0x0C100008 (State.reset.setPc 0xFFFFFFFC) = some (0x00400020, 0x00000000) := by decide
theorem test_jr_unaligned : goes 0x00200008 (withRegs [(1, 0x00400002)]) = some (0x00400002, 0) := by decide
theorem test_jalr_keeps_ra :
    goes 0x00401809 (withRegs [(2, 0x00400100), (31, 0x11111111)]) = some (0x00400100, 0x11111111) := by decide
theorem test_jalr_same_register : gives 0x00401009 (withRegs [(2, 0x00400100)]) 2 = some 0x00400004 := by decide

/-! Loads: section 2.8. The data bytes lie at 0x10010000, the address in register 1. -/

theorem test_lb : gives 0x80220002 (withData .little [(1, 0x10010000)] loadBytes) 2 = some 0xFFFFFFFF := by decide
theorem test_lbu : gives 0x90220000 (withData .little [(1, 0x10010000)] loadBytes) 2 = some 0x00000080 := by decide
theorem test_lh_big : gives 0x84220000 (withData .big [(1, 0x10010000)] loadBytes) 2 = some 0xFFFF807F := by decide
theorem test_lh_odd :
    badAddress 0x84220001 (withData .little [(1, 0x10010000)] loadBytes) = some (4, 0x10010001) := by decide
theorem test_lhu_little :
    gives 0x94220002 (withData .little [(1, 0x10010000)] loadBytes) 2 = some 0x000001FF := by decide
theorem test_lhu_odd :
    badAddress 0x94220003 (withData .little [(1, 0x10010000)] loadBytes) = some (4, 0x10010003) := by decide
theorem test_lw_little :
    gives 0x8C210000 (withData .little [(1, 0x10010000)] loadBytes) 1 = some 0x01FF7F80 := by decide
theorem test_lw_big : gives 0x8C220004 (withData .big [(1, 0x10010000)] loadBytes) 2 = some 0xAABBCCDD := by decide
/-- The table of `47_load.md` R319. -/
theorem test_lwl_little :
    gives 0x88220001 (withData .little [(1, 0x10010000), (2, 0xAABBCCDD)] storeBytes) 2 = some 0x2211CCDD := by decide
theorem test_lwl_big :
    gives 0x88220001 (withData .big [(1, 0x10010000), (2, 0xAABBCCDD)] storeBytes) 2 = some 0x223344DD := by decide
theorem test_lwr_little :
    gives 0x98220001 (withData .little [(1, 0x10010000), (2, 0xAABBCCDD)] storeBytes) 2 = some 0xAA443322 := by decide
theorem test_lwr_big :
    gives 0x98220001 (withData .big [(1, 0x10010000), (2, 0xAABBCCDD)] storeBytes) 2 = some 0xAABB1122 := by decide

/-! Stores: section 2.9. The word at 0x10010000 holds the bytes 11 22 33 44, register 2 0xAABBCCDD. -/

theorem test_sb :
    leaves 0xA0220003 (withData .little [(1, 0x10010000), (2, 0xAABBCCDD)] storeBytes) =
      some [0x11, 0x22, 0x33, 0xDD] := by decide
theorem test_sh_little :
    leaves 0xA4220002 (withData .little [(1, 0x10010000), (2, 0xAABBCCDD)] storeBytes) =
      some [0x11, 0x22, 0xDD, 0xCC] := by decide
theorem test_sh_big :
    leaves 0xA4220000 (withData .big [(1, 0x10010000), (2, 0xAABBCCDD)] storeBytes) =
      some [0xCC, 0xDD, 0x33, 0x44] := by decide
theorem test_sw_little :
    leaves 0xAC220000 (withData .little [(1, 0x10010000), (2, 0xAABBCCDD)] storeBytes) =
      some [0xDD, 0xCC, 0xBB, 0xAA] := by decide
theorem test_sw_misaligned :
    badAddress 0xAC22FFFF (withData .little [(1, 0x10010000)] storeBytes) = some (5, 0x1000FFFF) := by decide
theorem test_swl_little :
    leaves 0xA8220001 (withData .little [(1, 0x10010000), (2, 0xAABBCCDD)] storeBytes) =
      some [0xBB, 0xAA, 0x33, 0x44] := by decide
theorem test_swl_big :
    leaves 0xA8220001 (withData .big [(1, 0x10010000), (2, 0xAABBCCDD)] storeBytes) =
      some [0x11, 0xAA, 0xBB, 0xCC] := by decide
theorem test_swr_little :
    leaves 0xB8220001 (withData .little [(1, 0x10010000), (2, 0xAABBCCDD)] storeBytes) =
      some [0x11, 0xDD, 0xCC, 0xBB] := by decide
theorem test_swr_big :
    leaves 0xB8220001 (withData .big [(1, 0x10010000), (2, 0xAABBCCDD)] storeBytes) =
      some [0xCC, 0xDD, 0x33, 0x44] := by decide

/-! Data movement and system: sections 2.10 and 2.11. -/

def someHiLo : State := (withRegs [(1, 0xCAFEBABE)]).setHiLo 0x12345678 0x9ABCDEF0

theorem test_mfhi : gives 0x00001010 someHiLo 2 = some 0x12345678 := by decide
theorem test_mflo : gives 0x00001012 someHiLo 2 = some 0x9ABCDEF0 := by decide
theorem test_mthi : hiLo 0x00200011 someHiLo = some (0xCAFEBABE, 0x9ABCDEF0) := by decide
theorem test_mtlo : hiLo 0x00200013 someHiLo = some (0x12345678, 0xCAFEBABE) := by decide

theorem test_mfc0_epc : gives 0x40027000 (withStatus 0 softwareRequest []) 2 = some 0x00400123 := by decide
theorem test_mfc0_badVAddr : gives 0x40024000 (withStatus 0 softwareRequest []) 2 = some 0x10010001 := by decide

theorem test_mtc0_status :
    statusCause 0x40826000 (withStatus 0 State.reset.cause [(2, 0xFFFFFFFF)]) = some (0x0000FF3F, 0) := by decide
theorem test_mtc0_cause :
    statusCause 0x40826800 (withStatus 0 { State.reset.cause with excCode := 12 } [(2, 0xFFFFFFFF)]) =
      some (0, 0x00000330) := by decide

theorem test_rfe : statusCause 0x42000010 (withStatus 0x0000FF24 State.reset.cause []) = some (0x0000FF29, 0) := by
  decide

theorem test_syscall :
    statusCause 0x03FFFFCC (withStatus 0x0000003F State.reset.cause []) = some (0x0000003C, 0x00000020) := by decide
theorem test_syscall_enters : enters 0x0000000C State.reset = some (0x80000080, 0x00400000, 8) := by decide

/-! Exceptions: sections 2.12 and 2.13. -/

theorem test_fetch_misaligned :
    badAddress 0x00001021 (State.reset.setPc 0x00400002) = some (4, 0x00400002) := by decide

theorem test_interrupt :
    statusCause 0x00001021 (withStatus 0x00000101 softwareRequest []) = some (0x00000104, 0x00000100) := by decide

theorem test_interrupt_before_fetch_error :
    enters 0x00001021 ((withStatus 0x00000101 softwareRequest []).setPc 0x00400002) =
      some (0x80000080, 0x00400002, 0) := by decide

theorem test_interrupt_masked : gives 0x00001021 (withStatus 0x00000201 softwareRequest [(2, 7)]) 2 = some 0 := by
  decide

theorem test_external_interrupt :
    statusCause 0x00001021
      { withStatus 0x0000FF01 State.reset.cause [] with par := { Params.default with extIrq := [0b100000#6] } } =
      some (0x0000FF04, 0x00008000) := by decide

theorem test_reserved_word : enters 0x0000000D State.reset = some (0x80000080, 0x00400000, 10) := by decide

theorem test_unbacked_load : enters 0x8C220000 withHole = some (0x80000080, 0x00400000, 7) := by decide

/-! Pseudo-instructions: the expansion words of `95_test_vectors.md`, encoded from the model's expansions at
0x00400000. -/

theorem test_expand_arithmetic :
    (expand 0x00400000 (.abs 4 5)).map (·.map encode) = some [0x00052021, 0x04A10001, 0x00052022] ∧
    (expand 0x00400000 (.mulo 4 5 (.reg 6))).map (·.map encode) =
      some [0x00A60018, 0x00000810, 0x00002012, 0x000427C3, 0x10240002, 0x3C017FFF, 0x00210020, 0x00002012] ∧
    (expand 0x00400000 (.mulou 4 5 (.reg 6))).map (·.map encode) =
      some [0x00A60019, 0x00000810, 0x10200002, 0x3C017FFF, 0x00210020, 0x00002012] := by decide

theorem test_expand_rotate_and_constant :
    (expand 0x00400000 (.rol 4 5 6)).map (·.map encode) = some [0x00060823, 0x00250806, 0x00C52004, 0x00812025] ∧
    (expand 0x00400000 (.ror 4 5 6)).map (·.map encode) = some [0x00060823, 0x00250804, 0x00C52006, 0x00812025] ∧
    (expand 0x00400000 (.li 2 0xFFFF7FFF)).map (·.map encode) = some [0x3C01FFFF, 0x34227FFF] ∧
    (expand 0x00400000 (.li 2 0xFFFF8000)).map (·.map encode) = some [0x24028000] ∧
    (expand 0x00400000 (.la 4 0x10010004)).map (·.map encode) = some [0x3C011001, 0x34240004] := by decide

theorem test_expand_comparison_and_branch :
    (expand 0x00400000 (.seq 4 5 6)).map (·.map encode) = some [0x00A62026, 0x2C840001] ∧
    (expand 0x00400000 (.sleu 4 5 6)).map (·.map encode) = some [0x00C5202B, 0x38840001] ∧
    (expand 0x00400000 (.bgt 5 (.reg 6) 0x00400100)).map (·.map encode) = some [0x00C5082A, 0x1420003E] ∧
    (expand 0x00400000 (.bgeu 5 6 0x00400100)).map (·.map encode) = some [0x00A6082B, 0x1020003E] ∧
    (expand 0x00400000 (.beqz 5 0x00400100)).map (·.map encode) = some [0x10A0003F] := by decide

/-- R128: an immediate `src2` is first loaded into `$at`, and the offset counts from the branch itself. -/
theorem test_expand_immediate_src2 :
    (expand 0x00400000 (.bgt 5 (.imm 0xFFFF) 0x00400100)).map (·.map encode) =
      some [0x2401FFFF, 0x0025082A, 0x1420003D] ∧
    (expand 0x00400000 (.bleu 5 (.imm 0x7FFF) 0x00400100)).map (·.map encode) =
      some [0x34017FFF, 0x0025082B, 0x1020003D] ∧
    (expand 0x00400000 (.div 4 5 (.imm 7))).map (·.map encode) = some [0x34010007, 0x00A1001A, 0x00002012] ∧
    (expand 0x00400000 (.mulou 4 5 (.imm 0x8000))).map (·.map encode) =
      some [0x24018000, 0x00A10019, 0x00000810, 0x10200002, 0x3C017FFF, 0x00210020, 0x00002012] := by decide

/-! ### Witnesses: concrete states and operands that meet the premises of each statement, one for each clause -/

/-- The premise "no interrupt is taken" of the step statements. -/
abbrev NoInterrupt (s : State) : Prop :=
  s.status.iec = false ∨ (extIrqAt s.par s.stepNo ++ s.cause.ipSw) &&& s.status.im = 0#8

/-- The premise "these `n` bytes from `a` on are backed". -/
abbrev Backed (s : State) (a : Word) (n : Nat) : Prop := ∀ k < n, backed s.par (a + BitVec.ofNat 32 k) = true

/-- The premise "one of these `n` bytes is unbacked". -/
abbrev Hole (s : State) (a : Word) (n : Nat) : Prop := ∃ k < n, backed s.par (a + BitVec.ofNat 32 k) = false

/-- Reset with `add $3,$1,$2` at `pc`. -/
def addAtPc : State := (withRegs [(1, 5), (2, 6)]).withFetchWord 32 0x00221820

theorem witness_DecodeInvertsEncode : (Instr.mtc0 31 (.other 31)).wellFormed = true := by decide

theorem witness_EncodeInvertsDecode : decode 0x40821000#32 = .ok (.mtc0 2 (.other 2)) := by decide

theorem witness_DecodeFollowsTheOpcodeTable :
    decode 0x00221820#32 = .ok (.add 3 1 2) ∧ OpcodeRow.mk "add" 0xFC0007FF 0x00000020 ∈ opcodeTable ∧
    0x00221820#32 &&& 0xFC0007FF#32 = 0x00000020#32 := by decide

theorem witness_StepRunsTheDecodedInstruction :
    NoInterrupt addAtPc ∧ addAtPc.pc.toNat % 4 = 0 ∧ Backed addAtPc addAtPc.pc 4 ∧
    decode (addAtPc.byteAt (addAtPc.pc + 3#32) ++ addAtPc.byteAt (addAtPc.pc + 2#32) ++
      addAtPc.byteAt (addAtPc.pc + 1#32) ++ addAtPc.byteAt addAtPc.pc) = .ok (.add 3 1 2) := by decide

theorem witness_StepRunsTheDecodedInstruction_masked :
    let s := withStatus 0x00000201 softwareRequest []
    s.status.iec = true ∧ NoInterrupt s ∧ Backed s s.pc 4 := by decide

theorem witness_InterruptTakenBeforeFetch :
    let s := withStatus 0x00000101 softwareRequest []
    s.status.iec = true ∧ (extIrqAt s.par s.stepNo ++ s.cause.ipSw) &&& s.status.im ≠ 0#8 := by decide

theorem witness_FetchFaults_misaligned :
    (NoInterrupt (State.reset.setPc 0x00400001) ∧ (State.reset.setPc 0x00400001).pc.extractLsb' 0 2 ≠ 0#2) ∧
    (NoInterrupt (State.reset.setPc 0x00400003) ∧ (State.reset.setPc 0x00400003).pc.extractLsb' 0 2 ≠ 0#2) := by
  decide

theorem witness_FetchFaults_unbacked :
    NoInterrupt (withHole.setPc 0x10010000) ∧ (withHole.setPc 0x10010000).pc.extractLsb' 0 2 = 0#2 ∧
    Hole (withHole.setPc 0x10010000) 0x10010000 4 := by decide

theorem witness_FetchFaults_ok :
    NoInterrupt addAtPc ∧ addAtPc.pc.extractLsb' 0 2 = 0#2 ∧ Backed addAtPc addAtPc.pc 4 := by decide

theorem witness_ReservedWordRaisesRI :
    NoInterrupt (State.reset.withFetchWord 32 0x0000000D) ∧
    (State.reset.withFetchWord 32 0x0000000D).fetch = .ok 0x0000000D#32 ∧
    opcodeTable.all (fun row => 0x0000000D#32 &&& row.mask != row.value) = true := by
  refine ⟨by decide, ?_, by decide⟩
  rfl

theorem witness_ReservedWordRaisesRI_opcode :
    (0xEC000000#32).extractLsb' 26 6 ∈
      [0x11#6, 0x12#6, 0x13#6, 0x1C#6, 0x30#6, 0x31#6, 0x32#6, 0x33#6, 0x38#6, 0x39#6, 0x3A#6, 0x3B#6] := by decide

theorem witness_UndefinedCp0RegisterIsRefused :
    ∀ n ∈ [0#5, 7#5, 9#5, 11#5, 15#5, 31#5], n ≠ 8#5 ∧ n ≠ 12#5 ∧ n ≠ 13#5 ∧ n ≠ 14#5 := by decide

/-- A sum at each end of the range, and one past it. -/
theorem witness_SignedAddition :
    (let s := withRegs [(1, 0x7FFFFFFE), (2, 1)];
      (2 ^ 31 - 1 : Int) = (s.reg 1).toInt + (s.reg 2).toInt ∧
      ¬((s.reg 1).msb = (s.reg 2).msb ∧ (s.reg 1 + s.reg 2).msb ≠ (s.reg 1).msb)) ∧
    (let s := withRegs [(1, 0x80000001), (2, 0xFFFFFFFF)];
      (-2 ^ 31 : Int) = (s.reg 1).toInt + (s.reg 2).toInt) ∧
    (let s := withRegs [(1, 0x7FFFFFFF), (2, 1)];
      (s.reg 1).msb = (s.reg 2).msb ∧ (s.reg 1 + s.reg 2).msb ≠ (s.reg 1).msb) := by decide

theorem witness_SignedAddition_immediate :
    (let s := withRegs [(1, 0x80000001)];
      (-2 ^ 31 : Int) = (s.reg 1).toInt + ((0xFFFF#16).signExtend 32).toInt ∧
      ¬((s.reg 1).msb = (0xFFFF#16).msb ∧ (s.reg 1 + (0xFFFF#16).signExtend 32).msb ≠ (s.reg 1).msb)) ∧
    (let s := withRegs [(1, 0x80000000)];
      (s.reg 1).msb = (0xFFFF#16).msb ∧ (s.reg 1 + (0xFFFF#16).signExtend 32).msb ≠ (s.reg 1).msb) := by decide

theorem witness_SignedSubtraction :
    (let s := withRegs [(1, 0x80000001), (2, 1)];
      (-2 ^ 31 : Int) = (s.reg 1).toInt - (s.reg 2).toInt ∧
      ¬((s.reg 1).msb ≠ (s.reg 2).msb ∧ (s.reg 1 - s.reg 2).msb = (s.reg 2).msb)) ∧
    (let s := withRegs [(2, 0x80000000)];
      (s.reg 1).msb ≠ (s.reg 2).msb ∧ (s.reg 1 - s.reg 2).msb = (s.reg 2).msb) := by decide

theorem witness_UnsignedDivision : ((withRegs [(1, 7), (2, 1)]).reg 2).toNat ≠ 0 := by decide

theorem witness_SignedDivision :
    (let s := withRegs [(1, 0), (2, 1)];
      0 ≤ (s.reg 1).toInt ∧ 0 < (s.reg 2).toInt) ∧
    (let s := withRegs [(1, 0x80000000), (2, 0xFFFFFFFF)];
      (s.reg 1).toInt = -2 ^ 31 ∧ (s.reg 2).toInt = -1) ∧
    (let s := withRegs [(1, 0xFFFFFFF9), (2, 3)];
      s.par.divSigned = .truncate ∧ (s.reg 2).toInt ≠ 0 ∧
        ¬((s.reg 1).toInt = -2 ^ 31 ∧ (s.reg 2).toInt = -1)) := by decide

theorem witness_ConditionalBranches :
    0x003E0004#32 = BitVec.ofInt 32 (State.reset.pc.toNat + 4 + 4 * (0x8000#16).toInt) ∧
    0x00400004#32 = BitVec.ofNat 32 (State.reset.pc.toNat + 4) := by decide

theorem witness_LinkingBranches :
    0x00420000#32 = BitVec.ofInt 32 (State.reset.pc.toNat + 4 + 4 * (0x7FFF#16).toInt) ∧
    0x00400004#32 = BitVec.ofNat 32 (State.reset.pc.toNat + 4) := by decide

theorem witness_PcStaysAligned :
    State.reset.pc.toNat % 4 = 0 ∧ ∃ t, exec (.beq 0 0 0x8000) State.reset = .next t := ⟨by decide, _, rfl⟩

theorem witness_ByteLoads :
    (0x10010000#32 = BitVec.ofInt 32 ((withHole.reg 1).toNat + (0#16).toInt) ∧
      backed withHole.par 0x10010000#32 = true) ∧
    (0x10010003#32 = BitVec.ofInt 32 ((withHole.reg 1).toNat + (3#16).toInt) ∧
      backed withHole.par 0x10010003#32 = false) := by decide

/-- An even address, the last one (whose halfword ends the address space), an odd one, one half of which is missing. -/
theorem witness_HalfLoads :
    (0x7F80#16 = loadBytes[1] ++ loadBytes[0] ∧ (0x10010000#32).getLsbD 0 = false ∧
      backed Params.default 0x10010000#32 = true ∧ backed Params.default (0x10010000#32 + 1#32) = true) ∧
    (0xFFFFFFFE#32 = BitVec.ofInt 32 ((State.reset.reg 1).toNat + (0xFFFE#16).toInt) ∧
      backed Params.default (0xFFFFFFFE#32 + 1#32) = true) ∧
    (0x10010001#32).getLsbD 0 = true ∧
    ((0x10010002#32).getLsbD 0 = false ∧ backed withHole.par (0x10010002#32 + 1#32) = false) := by decide

theorem witness_WordLoad :
    (0xFFFFFFFC#32 = BitVec.ofInt 32 ((State.reset.reg 1).toNat + (0xFFFC#16).toInt) ∧
      (0xFFFFFFFC#32).extractLsb' 0 2 = 0b00#2 ∧ Backed State.reset 0xFFFFFFFC#32 4) ∧
    (0xFFFFFFFF#32 = BitVec.ofInt 32 ((State.reset.reg 1).toNat + (0xFFFF#16).toInt) ∧
      (0xFFFFFFFF#32).extractLsb' 0 2 ≠ 0b00#2) ∧
    (0x10010000#32 = BitVec.ofInt 32 ((withHole.reg 1).toNat + (0#16).toInt) ∧
      (0x10010000#32).extractLsb' 0 2 = 0b00#2 ∧ Hole withHole 0x10010000#32 4) := by decide

theorem witness_PartialLoads :
    (0x10010003#32 = BitVec.ofInt 32 (((withData .big [(1, 0x10010000)] loadBytes).reg 1).toNat + (3#16).toInt) ∧
      3 = (0x10010003#32).toNat % 4 ∧
      Backed (withData .big [(1, 0x10010000)] loadBytes) (0x10010003#32 - BitVec.ofNat 32 3) 4) ∧
    (0 = (0x10010000#32).toNat % 4 ∧ Hole withHole (0x10010000#32 - BitVec.ofNat 32 0) 4) := by decide

theorem witness_ByteStore :
    (0xFFFFFFFF#32 = BitVec.ofInt 32 ((State.reset.reg 1).toNat + (0xFFFF#16).toInt) ∧
      backed State.reset.par 0xFFFFFFFF#32 = true) ∧
    (0x10010003#32 = BitVec.ofInt 32 ((withHole.reg 1).toNat + (3#16).toInt) ∧
      backed withHole.par 0x10010003#32 = false) := by decide

theorem witness_HalfStore :
    (0xFFFFFFFE#32 = BitVec.ofInt 32 ((State.reset.reg 1).toNat + (0xFFFE#16).toInt) ∧
      (0xFFFFFFFE#32).getLsbD 0 = false ∧ backed State.reset.par 0xFFFFFFFE#32 = true ∧
      backed State.reset.par (0xFFFFFFFE#32 + 1#32) = true) ∧
    (0x10010001#32 = BitVec.ofInt 32 ((withHole.reg 1).toNat + (1#16).toInt) ∧ (0x10010001#32).getLsbD 0 = true) ∧
    (0x10010002#32 = BitVec.ofInt 32 ((withHole.reg 1).toNat + (2#16).toInt) ∧
      (0x10010002#32).getLsbD 0 = false ∧ backed withHole.par (0x10010002#32 + 1#32) = false) := by decide

theorem witness_WordStore :
    (0x10010004#32 = BitVec.ofInt 32 ((withHole.reg 1).toNat + (4#16).toInt) ∧
      (0x10010004#32).extractLsb' 0 2 = 0b00#2 ∧ Backed withHole 0x10010004#32 4) ∧
    (0x10010001#32 = BitVec.ofInt 32 ((withHole.reg 1).toNat + (1#16).toInt) ∧
      (0x10010001#32).extractLsb' 0 2 ≠ 0b00#2) ∧
    (0x10010000#32 = BitVec.ofInt 32 ((withHole.reg 1).toNat + (0#16).toInt) ∧
      (0x10010000#32).extractLsb' 0 2 = 0b00#2 ∧ Hole withHole 0x10010000#32 4) := by decide

theorem witness_PartialStores :
    (0x10010007#32 = BitVec.ofInt 32 ((withHole.reg 1).toNat + (7#16).toInt) ∧ 3 = (0x10010007#32).toNat % 4 ∧
      Backed withHole (0x10010007#32 - BitVec.ofNat 32 3) 4) ∧
    (0x10010000#32 = BitVec.ofInt 32 ((withHole.reg 1).toNat + (0#16).toInt) ∧ 0 = (0x10010000#32).toNat % 4 ∧
      Hole withHole (0x10010000#32 - BitVec.ofNat 32 0) 4) := by decide

/-- An address whose word lies across the end of the address space, in both byte orders. -/
theorem witness_UnalignedPairs :
    ∀ e ∈ [Endian.little, Endian.big], let s := withData e [(1, 0xFFFFFFFE)] loadBytes
      0xFFFFFFFE#32 = s.reg 1 ∧ (1#5 : Reg) ≠ 2#5 ∧ (2#5 : Reg) ≠ 0#5 ∧
      Backed s (alignedWord 0xFFFFFFFE#32) 4 ∧ Backed s (alignedWord (0xFFFFFFFE#32 + 3#32)) 4 := by decide

theorem witness_StoredWordReadsBack :
    let s := withData .big [(1, 0x10010000), (2, 0xAABBCCDD)] storeBytes
    s.reg 2 = 0xAABBCCDD#32 ∧ s.reg 1 = s.reg 1 &&& 0xFFFFFFFC#32 ∧ Backed s (s.reg 1) 4 ∧ (3#5 : Reg) ≠ 0#5 := by
  decide

theorem witness_MoveCoprocessor0 :
    0xFFFFFFFF#32 = (withRegs [(2, 0xFFFFFFFF)]).reg 2 ∧
    ∀ n ∈ [0#5, 7#5, 9#5, 11#5, 15#5, 31#5], n ∉ [8#5, 12#5, 13#5, 14#5] := by decide

theorem witness_HandlerReturnRestoresTheContext : (26#5 : Reg) ≠ 0#5 := by decide

theorem witness_StepKeepsTheInvariant : State.reset.Inv ∧ ∃ t, step State.reset = .next t :=
  ⟨⟨by decide, by decide, by decide, by decide⟩, _, rfl⟩

theorem witness_OnlyTheDestinationChanges :
    (∃ t, exec (.add 3 1 2) State.reset = .next t) ∧ destination (.add 3 1 2) ≠ some 1#5 :=
  ⟨⟨_, rfl⟩, by decide⟩

/-- Two states that differ in register 5, which `lwl` of register 2 does not read. -/
theorem witness_ReadsOnlyTheListedRegisters :
    withRegs [(5, 9)] = { State.reset with gpr := (withRegs [(5, 9)]).gpr } ∧
    (∀ r ∈ sources (.lwl 2 1 0), State.reset.reg r = (withRegs [(5, 9)]).reg r) ∧
    destination (.lwl 2 1 0) = some 2#5 ∧ withRegs [(5, 9)] ≠ State.reset := by decide

theorem witness_MemoryChangesOnlyByStores :
    let s := (withRegs [(1, 0x10010000), (2, 1)]).withFetchWord 32 0xA0220000
    (∃ t, step s = .next t) ∧ (ran 0xA0220000 s).map (·.byteAt 0x10010000) = some 1#8 ∧
      s.byteAt 0x10010000 = 0#8 :=
  ⟨⟨_, rfl⟩, by decide, by decide⟩

theorem witness_HiLoChangeOnlyBySixInstructions :
    let s := (withRegs [(1, 7)]).withFetchWord 32 0x00200011
    (∃ t, step s = .next t) ∧ hiLo 0x00200011 s = some (7#32, 0#32) ∧ s.hi = 0#32 :=
  ⟨⟨_, rfl⟩, by decide, by decide⟩

/-- `BadVAddr` by a misaligned fetch; `Status`, `Cause`, `EPC` by `mtc0`. -/
theorem witness_SystemRegisterWriters :
    (badAddress 0x00001021 (State.reset.setPc 0x00400002) = some (4#4, 0x00400002#32) ∧
      State.reset.badVAddr = 0#32) ∧
    ((ran 0x40826000 (withRegs [(2, 1)])).map (·.status.iec) = some true ∧ State.reset.status.iec = false) ∧
    ((ran 0x40826800 (withRegs [(2, 0x100)])).map (·.cause.ipSw) = some 1#2 ∧ State.reset.cause.ipSw = 0#2) ∧
    ((ran 0x40827000 (withRegs [(2, 4)])).map (·.epc) = some 4#32 ∧ State.reset.epc = 0#32) := by decide

/-- Two states that differ in the three `KU` bits. -/
theorem witness_ModeBitsHaveNoEffect :
    let u := { State.reset with status := Status.ofWord 0x0000002A }
    u = { State.reset with status := u.status } ∧ State.reset.status.im = u.status.im ∧
    State.reset.status.iec = u.status.iec ∧ State.reset.status.iep = u.status.iep ∧
    State.reset.status.ieo = u.status.ieo ∧ State.reset.status.kuc ≠ u.status.kuc := by decide

theorem witness_PseudoComparisons :
    (4#5 : Reg) ≠ 1#5 ∧ (5#5 : Reg) ≠ 1#5 ∧ (6#5 : Reg) ≠ 1#5 ∧
    (Pseudo.sne 4 5 6, false) ∈
      [(Pseudo.seq 4 5 6, true), (Pseudo.sne 4 5 6, decide (State.reset.reg 5 ≠ State.reset.reg 6))] := by decide

/-- Labels as far away as R123 lets one be. -/
theorem witness_PseudoBranches :
    (expand State.reset.pc (.b 0x00420000)).isSome = true ∧ (expand State.reset.pc (.b 0x003E0004)).isSome = true ∧
    (expand State.reset.pc (.bge 5 6 0x00420004)).isSome = true ∧
    (expand State.reset.pc (.bgt 5 (.reg 6) 0x00420004)).isSome = true ∧
    (expand State.reset.pc (.bgt 5 (.imm 0x8000) 0x00420008)).isSome = true ∧
    (expand State.reset.pc (.bleu 5 (.imm 0x7FFF) 0x003E000C)).isSome = true ∧
    (5#5 : Reg) ≠ 1#5 ∧ Src2.reg 6 ≠ .reg 1#5 ∧ Src2.imm 0x8000 ≠ .reg 1#5 := by decide

theorem witness_PseudoOneOperand :
    (withRegs [(5, 0x80000000)]).reg 5 = 0x80000000#32 ∧ (withRegs [(5, 0x80000001)]).reg 5 ≠ 0x80000000#32 ∧
    (4#5 : Reg) ≠ 1#5 := by decide

/-- -2^31 / -1 with the divisor in a register (`s₁` is `s`) and as the immediate (`s₁` holds it in register 6). -/
theorem witness_PseudoMultiplyDivide :
    let s := withRegs [(5, 0x80000000)]
    let s₁ := withRegs [(5, 0x80000000), (6, 0xFFFFFFFF)]
    ((4#5 : Reg) ≠ 1#5 ∧ Src2.imm 0xFFFF ≠ .reg 1#5 ∧ Src2.reg 6 ≠ .reg 1#5 ∧
      s₁.par = s.par ∧ s₁.draws = s.draws ∧ s₁.reg 5 = s.reg 5 ∧
      s₁.reg 6 = src2Value s (.imm 0xFFFF) ∧ s₁.reg 6 = src2Value s₁ (.reg 6)) ∧
    (∃ t, exec (.div 5 6) s₁ = .next t) ∧ (∃ t, exec (.divu 5 6) s₁ = .next t) ∧
    ∃ t, exec (.mult 5 6) s₁ = .next t :=
  ⟨by decide, ⟨_, rfl⟩, ⟨_, rfl⟩, _, rfl⟩

/-- The products at the ends of each range and just past them, with a register and with an immediate. -/
theorem witness_PseudoMultiplyWithOverflow :
    (4#5 : Reg) ≠ 0#5 ∧ (4#5 : Reg) ≠ 1#5 ∧
    (let s := withRegs [(5, 0x00010000), (6, 0xFFFF8000)];
      (-2 ^ 31 : Int) = (s.reg 5).toInt * (src2Value s (.reg 6)).toInt ∧
      (-2 ^ 31 : Int) = (s.reg 5).toInt * (src2Value s (.imm 0x8000)).toInt) ∧
    (let s := withRegs [(5, 0xFFFF0000), (6, 0xFFFF8000)];
      (2 ^ 31 : Int) = (s.reg 5).toInt * (src2Value s (.reg 6)).toInt ∧
      (2 ^ 31 : Int) = (s.reg 5).toInt * (src2Value s (.imm 0x8000)).toInt) ∧
    (let s := withRegs [(5, 0xFFFFFFFF), (6, 1)];
      2 ^ 32 - 1 = (s.reg 5).toNat * (src2Value s (.reg 6)).toNat ∧
      2 ^ 32 - 1 = (s.reg 5).toNat * (src2Value s (.imm 1)).toNat) ∧
    (let s := withRegs [(5, 0x00100000), (6, 0x00001000)];
      2 ^ 32 = (s.reg 5).toNat * (src2Value s (.reg 6)).toNat ∧
      2 ^ 32 = (s.reg 5).toNat * (src2Value s (.imm 0x1000)).toNat) ∧
    Src2.imm 0x8000 ≠ .reg 1#5 := by decide

theorem witness_PseudoRotateAndConstant :
    (5#5 : Reg) ≠ 1#5 ∧ (Pseudo.li 5 0xFFFF7FFF, 0xFFFF7FFF#32) ∈
      [(Pseudo.rol 5 5 6, (State.reset.reg 5).rotateLeft ((State.reset.reg 6).toNat % 32)),
        (Pseudo.li 5 0xFFFF7FFF, 0xFFFF7FFF#32)] := by decide

end Sys2Proof.Tests
end

section
/-! PROOFS for `00_scope.md`: the machine never stops but where R37 has the model refuse (R14, `60_exceptions.md`
R384), and the state after reset (R4). First what each decoder can answer with a coprocessor-0 operand, then what
`exec` can answer, then the step. -/

namespace Sys2Proof

/-! ### Words that decode to an instruction with a coprocessor-0 operand (`30_encoding.md` R105, R114, R115) -/

theorem strict_eq_ok {b : Bool} {i j : Instr} : strict b i = .ok j ↔ b = true ∧ i = j := by
  cases b <;> simp [strict]

/-- A well-formed `other` carries none of the four numbers that R30 defines. -/
theorem Cp0Reg.wellFormed_other {n : BitVec 5} :
    (Cp0Reg.other n).wellFormed = true ↔ n ≠ 8#5 ∧ n ≠ 12#5 ∧ n ≠ 13#5 ∧ n ≠ 14#5 := by
  simp [Cp0Reg.wellFormed, and_assoc]

/-- No line of R112 has a coprocessor-0 operand. The goals left to the end are the lines behind the strict check. -/
theorem decodeSpecial_cp0Operand {w : Word} {i : Instr} (h : decodeSpecial w = .ok i) : i.cp0Operand = none := by
  unfold decodeSpecial at h
  split at h
  case h_9 => cases h; rfl -- `syscall`, which has no unused field
  case h_28 => cases h -- no line of R112
  all_goals obtain ⟨-, rfl⟩ := strict_eq_ok.1 h; rfl

/-- No line of R113 has a coprocessor-0 operand. -/
theorem decodeRegimm_cp0Operand {w : Word} {i : Instr} (h : decodeRegimm w = .ok i) : i.cp0Operand = none := by
  unfold decodeRegimm at h
  split at h <;> cases h <;> rfl

/-- Only a COP0 word decodes to an instruction with a coprocessor-0 operand. -/
theorem decode_cp0Operand {w : Word} {i : Instr} {c : Cp0Reg} (h : decode w = .ok i)
    (hc : i.cp0Operand = some c) : opField w = 0x10#6 ∧ decodeCop0 w = .ok i := by
  unfold decode at h
  split at h
  case h_1 => simp [decodeSpecial_cp0Operand h] at hc
  case h_2 => simp [decodeRegimm_cp0Operand h] at hc
  case h_17 hop => exact ⟨hop, h⟩
  -- `blez`, `bgtz`, `lui`: the lines of R111 behind the strict check
  case h_7 | h_8 | h_16 => obtain ⟨-, rfl⟩ := strict_eq_ok.1 h; cases hc
  case h_30 => cases h -- no line of R111
  all_goals cases h; cases hc

/-- A COP0 word that decodes is the word of its instruction, which is well-formed. -/
theorem encode_of_decodeCop0 {w : Word} {i : Instr} (hop : opField w = 0x10#6) (h : decodeCop0 w = .ok i) :
    i.wellFormed = true ∧ encode i = w := by
  have hwf := cp0RegOf_wellFormed (rdField w)
  have hword : ∀ sel, rsField w = sel → (shamtField w == 0#5 && functField w == 0#6) = true →
      encodeCop0 sel (rtField w) (cp0Number (cp0RegOf (rdField w))) = w := by
    rintro sel rfl hlow
    obtain ⟨hshamt, hfunct⟩ : shamtField w = 0#5 ∧ functField w = 0#6 := by simpa using hlow
    rw [hwf.2, encodeCop0_fields w hop hshamt hfunct]
  unfold decodeCop0 at h
  split at h
  case h_1 hsel | h_2 hsel =>
    obtain ⟨hlow, rfl⟩ := strict_eq_ok.1 h
    exact ⟨hwf.1, hword _ hsel hlow⟩
  case h_3 =>
    split at h
    next hrfe => cases h; exact ⟨rfl, hrfe.symm⟩
    next => cases h
  case h_4 => cases h

/-- A word that decodes to an operand `other n` is the word of its instruction, and `n` is undefined (R37). -/
theorem encode_of_decode_other {w : Word} {i : Instr} {n : BitVec 5} (h : decode w = .ok i)
    (hc : i.cp0Operand = some (.other n)) :
    encode i = w ∧ n ≠ 8#5 ∧ n ≠ 12#5 ∧ n ≠ 13#5 ∧ n ≠ 14#5 := by
  obtain ⟨hop, hcop⟩ := decode_cp0Operand h hc
  obtain ⟨hwf, hw⟩ := encode_of_decodeCop0 hop hcop
  exact ⟨hw, Cp0Reg.wellFormed_other.1 (by simpa [Instr.wellFormed, hc] using hwf)⟩

end Sys2Proof

namespace Sys2Proof.Machine

/-! ### What the shared operations and `exec` answer -/

theorem State.writeSigned_next (s : State) (rd : Reg) (r : Int) : ∃ t, s.writeSigned rd r = .next t := by
  rcases s.writeSigned_cases rd r with ⟨-, -, h⟩ | ⟨-, h⟩ <;> exact ⟨_, h⟩

theorem State.loadReg_next (s : State) (a : Word) (n : Nat) (rt : Reg) (v : Word) :
    ∃ t, s.loadReg a n rt v = .next t := by
  rcases s.loadReg_cases a n rt v with ⟨-, h⟩ | ⟨_, -, h⟩ <;> exact ⟨_, h⟩

theorem State.storeMem_next (s : State) (a : Word) (n : Nat) (s' : State) :
    ∃ t, s.storeMem a n s' = .next t := by
  rcases s.storeMem_cases a n s' with ⟨-, h⟩ | ⟨_, -, h⟩ <;> exact ⟨_, h⟩

/-- An instruction without a coprocessor-0 operand always has a next state: it completes, or takes an exception. -/
theorem exec_next {i : Instr} (hc : i.cp0Operand = none) (s : State) : ∃ t, exec i s = .next t := by
  cases i with
  | add | addi | sub => exact s.writeSigned_next _ _
  | lb | lbu | lh | lhu | lw | lwl | lwr => exact s.loadReg_next _ _ _ _
  | sb | sh | sw | swl | swr => exact s.storeMem_next _ _ _
  | div rs rt =>
    obtain ⟨h, l, k, hdiv⟩ := execDiv_cases rs rt s
    exact ⟨_, hdiv⟩
  | divu rs rt =>
    obtain ⟨h, l, k, hdivu⟩ := execDivu_cases rs rt s
    exact ⟨_, hdivu⟩
  | mfc0 | mtc0 => cases hc
  | _ => exact ⟨_, rfl⟩

/-- Everything `exec` can answer: a next state, or one of the two refusals of R37. -/
theorem exec_cases (i : Instr) (s : State) :
    (∃ t, exec i s = .next t) ∨
    (∃ rt n, i = .mfc0 rt (.other n) ∧ exec i s = .refused (.mfc0Undefined n)) ∨
    (∃ rt n, i = .mtc0 rt (.other n) ∧ exec i s = .refused (.mtc0Undefined n)) := by
  cases i with
  | mfc0 rt c =>
    rcases execMfc0_cases rt c s with ⟨_, _, h⟩ | ⟨n, rfl, h⟩
    · exact .inl ⟨_, h⟩
    · exact .inr (.inl ⟨rt, n, rfl, h⟩)
  | mtc0 rt c =>
    rcases execMtc0_cases rt c s with ⟨-, h⟩ | ⟨-, h⟩ | ⟨-, h⟩ | ⟨-, h⟩ | ⟨n, rfl, h⟩
    case inr.inr.inr.inr => exact .inr (.inr ⟨rt, n, rfl, h⟩)
    all_goals exact .inl ⟨_, h⟩
  | _ => exact .inl (exec_next rfl s)

/-! ### The step -/

/-- Sampling the interrupt lines does not touch what the fetch reads. -/
@[simp] theorem State.poll_fetch (s : State) : s.poll.fetch = s.fetch := rfl

/-- An instruction that reaches execution is the decoding of the word at `pc`. -/
theorem State.select_eq_ok {s : State} {i : Instr} (h : s.select = .ok i) :
    ∃ w, s.fetch = .ok w ∧ decode w = .ok i := by
  rcases s.select_cases with ⟨-, hs⟩ | ⟨-, e, -, hs⟩ | ⟨-, w, r, -, -, hs⟩ | ⟨-, w, j, hf, hd, hs⟩
  case inr.inr.inr =>
    obtain rfl : j = i := Except.ok.inj (hs.symm.trans h)
    exact ⟨w, hf, hd⟩
  all_goals cases hs.symm.trans h

/-- Settles O9: an exception before execution has a next state, and so has every execution but the two that R37
refuses, whose word is then R105's. -/
theorem stepStopsOnlyAtUndefinedCp0 : Obligations.StepStopsOnlyAtUndefinedCp0 := by
  intro s
  rcases step_cases s with ⟨e, -, hstep⟩ | ⟨i, hsel, hstep⟩
  · exact .inl ⟨_, hstep⟩
  obtain ⟨w, hfetch, hdec⟩ := State.select_eq_ok hsel
  rw [State.poll_fetch] at hfetch
  rcases exec_cases i s.poll with ⟨t, ht⟩ | ⟨rt, n, rfl, href⟩ | ⟨rt, n, rfl, href⟩
  · exact .inl ⟨t, hstep.trans ht⟩
  · obtain ⟨hw, h8, h12, h13, h14⟩ := encode_of_decode_other hdec rfl
    exact .inr ⟨w, rt, n, hfetch, h8, h12, h13, h14, .inl ⟨hw.symm, hstep.trans href⟩⟩
  · obtain ⟨hw, h8, h12, h13, h14⟩ := encode_of_decode_other hdec rfl
    exact .inr ⟨w, rt, n, hfetch, h8, h12, h13, h14, .inr ⟨hw.symm, hstep.trans href⟩⟩

/-! ### The state after reset (R4, `10_state.md` R39) -/

/-- Every launch whose memory is in canonical form meets the invariant: the other three parts are what R39 fixes. -/
theorem State.launch_inv {l : Launch} (hmem : l.mem.wf = true) : (State.launch l).Inv where
  memory := hmem
  branchDelay := rfl
  excCode := rfl
  externalLines := rfl

/-- With no unbacked range every address is backed (R4's default of `MEM_BACKED`). -/
theorem backed_of_unbacked_nil {p : Params} (h : p.unbacked = []) (a : Word) : backed p a = true := by
  simp [backed_iff, h]

/-- With no sample the external lines stay zero (R4's default of `EXT_IRQ`). -/
theorem extIrqAt_of_extIrq_nil {p : Params} (h : p.extIrq = []) (n : Nat) : extIrqAt p n = 0#6 := by
  simp [extIrqAt, h]

/-- Settles O47: reset is the launch with empty memory and R4's default parameters. -/
theorem resetMeetsTheInvariant : Obligations.ResetMeetsTheInvariant :=
  ⟨State.launch_inv State.reset_wf, rfl, rfl, backed_of_unbacked_nil rfl, extIrqAt_of_extIrq_nil rfl, rfl⟩

end Sys2Proof.Machine
end

section
/-! PROOFS for `10_state.md`. First what a completing instruction can leave behind, shape by shape, and from that
the invariant, the registers that change and who may change the coprocessor-0 registers (R23, R27, R30, R34). Then
what an instruction can depend on (R23), the step under no interrupt (R26), the undefined coprocessor-0 registers
(R37) and the launch (R39). -/

namespace Sys2Proof.Machine

/-! ### What an instruction and a step can leave behind -/

/-- The instructions that write `hi` or `lo` (R27). -/
abbrev hiLoWriters : List String := ["mult", "multu", "div", "divu", "mthi", "mtlo"]

/-- What the instruction `i` leaves of `s` when it completes, one constructor for each shape of effect. -/
inductive Completes (i : Instr) (s : State) : State → Prop
  /-- Branches and jumps without a link, and `mtc0` of `BadVAddr`, which ignores its operand (R351). -/
  | setPc (p : Word) : Completes i s (s.setPc p)
  | setReg {rd : Reg} (v p : Word) (k : Nat) (hd : destination i = some rd) :
      Completes i s (((s.setReg rd v).drew k).setPc p)
  | setHiLo (h l : Word) (k : Nat) (hm : i.mnemonic ∈ hiLoWriters) :
      Completes i s ((s.setHiLo h l).drew k).advance
  | setByte {a : Word} (b : Byte) (hspan : storeSpan i s = some (a, 1)) : Completes i s (s.setByte a b).advance
  | setHalf {a : Word} (v : Word) (hspan : storeSpan i s = some (a, 2)) : Completes i s (s.setHalf a v).advance
  | setWord {a : Word} (v : Word) (hspan : storeSpan i s = some (a, 4)) : Completes i s (s.setWord a v).advance
  | setStatus {rt : Reg} (v : Word) (hi : i = .mtc0 rt .status) :
      Completes i s (s.setStatus (Status.ofWord v)).advance
  | setCause {rt : Reg} (v : Word) (hi : i = .mtc0 rt .cause) :
      Completes i s (s.setCause (s.cause.writeSw v)).advance
  | setEpc {rt : Reg} (v : Word) (hi : i = .mtc0 rt .epc) : Completes i s (s.setEpc v).advance
  | rfe (hi : i = .rfe) : Completes i s s.returnFromException.advance

/-- A register write that uses no free word. -/
theorem Completes.setReg_noDraw {i : Instr} {s : State} {rd : Reg} {v p : Word} (hd : destination i = some rd) :
    Completes i s ((s.setReg rd v).setPc p) :=
  .setReg v p 0 hd

/-- A write of `hi` and `lo` that uses no free word. -/
theorem Completes.setHiLo_noDraw {i : Instr} {s : State} {h l : Word} (hm : i.mnemonic ∈ hiLoWriters) :
    Completes i s (s.setHiLo h l).advance :=
  .setHiLo h l 0 hm

/-- An outcome known to write `hi` and `lo` only. -/
theorem Completes.of_setHiLo {i : Instr} {s t : State} {o : Result} (hm : i.mnemonic ∈ hiLoWriters)
    (ho : ∃ h l k, o = .next ((s.setHiLo h l).drew k).advance) (ht : o = .next t) : Completes i s t := by
  obtain ⟨h, l, k, ho⟩ := ho
  cases ho.symm.trans ht
  exact .setHiLo h l k hm

theorem State.writeSigned_completes {i : Instr} {s t : State} {rd : Reg} {r : Int} (hd : destination i = some rd)
    (h : s.writeSigned rd r = .next t) : (∃ e, t = s.raise e) ∨ Completes i s t := by
  rcases s.writeSigned_cases rd r with ⟨-, -, hw⟩ | ⟨-, hw⟩ <;> cases hw.symm.trans h
  · exact .inr (.setReg_noDraw hd)
  · exact .inl ⟨_, rfl⟩

theorem State.loadReg_completes {i : Instr} {s t : State} {a : Word} {n : Nat} {rt : Reg} {v : Word}
    (hd : destination i = some rt) (h : s.loadReg a n rt v = .next t) : (∃ e, t = s.raise e) ∨ Completes i s t := by
  rcases s.loadReg_cases a n rt v with ⟨-, hl⟩ | ⟨e, -, hl⟩ <;> cases hl.symm.trans h
  · exact .inr (.setReg_noDraw hd)
  · exact .inl ⟨e, rfl⟩

theorem State.storeMem_completes {i : Instr} {s s' t : State} {a : Word} {n : Nat} (hs : Completes i s s'.advance)
    (h : s.storeMem a n s' = .next t) : (∃ e, t = s.raise e) ∨ Completes i s t := by
  rcases s.storeMem_cases a n s' with ⟨-, hm⟩ | ⟨e, -, hm⟩ <;> cases hm.symm.trans h
  · exact .inr hs
  · exact .inl ⟨e, rfl⟩

/-- Everything an instruction with a next state can do: take an exception, or complete in one of the shapes. -/
theorem exec_completes {i : Instr} {s t : State} (h : exec i s = .next t) :
    (∃ e, t = s.raise e) ∨ Completes i s t := by
  cases i with
  | add | addi | sub => exact State.writeSigned_completes rfl h
  | lb | lbu | lh | lhu | lw | lwl | lwr => exact State.loadReg_completes rfl h
  | sb => exact State.storeMem_completes (.setByte _ rfl) h
  | sh => exact State.storeMem_completes (.setHalf _ rfl) h
  | sw | swl | swr => exact State.storeMem_completes (.setWord _ rfl) h
  | syscall => cases h; exact .inl ⟨_, rfl⟩
  | beq | bne | bgez | bgtz | blez | bltz | j | jr => cases h; exact .inr (.setPc _)
  | mult | multu | mthi | mtlo => cases h; exact .inr (.setHiLo_noDraw (by simp [Instr.mnemonic, hiLoWriters]))
  | div rs rt => exact .inr (.of_setHiLo (by simp [Instr.mnemonic, hiLoWriters]) (execDiv_cases rs rt s) h)
  | divu rs rt => exact .inr (.of_setHiLo (by simp [Instr.mnemonic, hiLoWriters]) (execDivu_cases rs rt s) h)
  | mfc0 rt c =>
    rcases execMfc0_cases rt c s with ⟨v, k, hm⟩ | ⟨n, -, hm⟩ <;> cases hm.symm.trans h
    exact .inr (.setReg v _ k rfl)
  | mtc0 rt c =>
    rcases execMtc0_cases rt c s with ⟨rfl, hm⟩ | ⟨rfl, hm⟩ | ⟨rfl, hm⟩ | ⟨rfl, hm⟩ | ⟨n, -, hm⟩ <;>
      cases hm.symm.trans h
    · exact .inr (.setPc _)
    · exact .inr (.setStatus _ rfl)
    · exact .inr (.setCause _ rfl)
    · exact .inr (.setEpc _ rfl)
  | rfe => cases h; exact .inr (.rfe rfl)
  | _ => cases h; exact .inr (.setReg_noDraw rfl)

/-- Everything a step with a next state can do: take an exception, or complete the selected instruction. -/
theorem step_completes {s t : State} (h : step s = .next t) :
    (∃ e, t = s.poll.raise e) ∨ ∃ i, s.poll.select = .ok i ∧ Completes i s.poll t := by
  rcases step_cases s with ⟨e, -, hstep⟩ | ⟨i, hsel, hstep⟩
  · cases hstep.symm.trans h
    exact .inl ⟨e, rfl⟩
  · exact (exec_completes (hstep.symm.trans h)).imp_right fun hc => ⟨i, hsel, hc⟩

/-! ### The invariant (R34, `20_memory.md` R60, `60_exceptions.md` R370, R376) -/

theorem Exc.code_legal (e : Exc) : legalExcCode e.code = true := by
  cases e <;> rfl

/-- Sampling the lines establishes the invariant's last part for the step number that has just moved on. -/
theorem State.Inv.poll {s : State} (h : s.Inv) : s.poll.Inv :=
  { h with externalLines := rfl }

theorem State.Inv.raise {s : State} (h : s.Inv) (e : Exc) : (s.raise e).Inv :=
  { h with branchDelay := rfl, excCode := e.code_legal }

section
variable {i : Instr} {s t : State} (hc : Completes i s t)
include hc

theorem Completes.par : t.par = s.par := by
  cases hc <;> simp

theorem Completes.stepNo : t.stepNo = s.stepNo := by
  cases hc <;> simp

/-- `mtc0` writes `IP[1:0]` of `Cause` only (R35). -/
theorem Completes.cause_fields :
    t.cause.bd = s.cause.bd ∧ t.cause.excCode = s.cause.excCode ∧ t.cause.ipExt = s.cause.ipExt := by
  cases hc <;> simp

theorem Completes.mem_wf (h : s.mem.wf = true) : t.mem.wf = true := by
  cases hc with
  | @setByte a b => exact s.setByte_wf a b h
  | @setHalf a v => exact s.setHalf_wf a v h
  | @setWord a v => exact s.setWord_wf a v h
  | _ => exact h

theorem Completes.inv (h : s.Inv) : t.Inv := by
  obtain ⟨hbd, hexc, hlines⟩ := hc.cause_fields
  exact ⟨hc.mem_wf h.memory, hbd.trans h.branchDelay, by rw [hexc, h.excCode],
    by rw [hlines, hc.par, hc.stepNo, h.externalLines]⟩

end

/-- Settles O46: sampling, exception entry and completion each keep the invariant. -/
theorem stepKeepsTheInvariant : Obligations.StepKeepsTheInvariant := by
  intro s t hinv hstep
  rcases step_completes hstep with ⟨e, rfl⟩ | ⟨i, -, hc⟩
  · exact hinv.poll.raise e
  · exact hc.inv hinv.poll

/-! ### What no other instruction changes (R23, R27) -/

theorem Completes.reg_of_not_destination {i : Instr} {s t : State} {r : Reg} (hc : Completes i s t)
    (hd : destination i ≠ some r) : t.reg r = s.reg r := by
  cases hc with
  | setReg v p k hrd => exact s.setReg_reg_other v fun hr => hd (hr ▸ hrd)
  | _ => simp

/-- Settles O49: an exception writes no general register, and a completion only its destination. -/
theorem onlyTheDestinationChanges : Obligations.OnlyTheDestinationChanges := by
  intro i s t r hexec hd
  rcases exec_completes hexec with ⟨e, rfl⟩ | hc
  · exact s.raise_reg e r
  · exact hc.reg_of_not_destination hd

theorem Completes.sameHiLo_or {i : Instr} {s t : State} (hc : Completes i s t) :
    SameHiLo s t ∨ i.mnemonic ∈ hiLoWriters := by
  cases hc with
  | setHiLo h l k hm => exact .inr hm
  | _ => simp [SameHiLo]

/-- Settles O52: neither sampling nor exception entry touches `hi` and `lo`. -/
theorem hiLoChangeOnlyBySixInstructions : Obligations.HiLoChangeOnlyBySixInstructions := by
  intro s t hstep hne
  rcases step_completes hstep with ⟨e, rfl⟩ | ⟨i, hsel, hc⟩
  · exact absurd ⟨rfl, rfl⟩ hne
  · exact ⟨i, hsel, hc.sameHiLo_or.resolve_left hne⟩

/-! ### Who may change each coprocessor-0 register (R30, R31) -/

/-- Exception entry (`60_exceptions.md` R380), for every cause. -/
theorem State.raise_enters (s : State) (e : Exc) : EntersException s (s.raise e) e.code e.badAddr := by
  obtain ⟨hkuo, hieo, hkup, hiep, hkuc, hiec⟩ := s.status.push_bits
  exact ⟨rfl, rfl, rfl, rfl, s.raise_ip e, rfl, ⟨hkuo, hieo, hkup, hiep, hkuc, hiec, rfl⟩, rfl, fun _ => rfl,
    ⟨rfl, rfl⟩, fun _ => rfl, rfl, rfl⟩

/-- Exception entry changes `BadVAddr` for an address error only (R31). -/
theorem State.raise_enters_of_badVAddr_ne {s : State} {e : Exc} (h : (s.raise e).badVAddr ≠ s.badVAddr) :
    EntersException s (s.raise e) 4#4 (some (s.raise e).badVAddr) ∨
      EntersException s (s.raise e) 5#4 (some (s.raise e).badVAddr) := by
  cases e with
  | adEL a => exact .inl (s.raise_enters (.adEL a))
  | adES a => exact .inr (s.raise_enters (.adES a))
  | _ => exact absurd rfl h

section
variable {i : Instr} {s t : State} (hc : Completes i s t)
include hc

theorem Completes.badVAddr : t.badVAddr = s.badVAddr := by
  cases hc <;> simp

theorem Completes.status_or : t.status = s.status ∨ i = .rfe ∨ ∃ rt, i = .mtc0 rt .status := by
  cases hc with
  | rfe hi => exact .inr (.inl hi)
  | @setStatus rt v hi => exact .inr (.inr ⟨rt, hi⟩)
  | _ => simp

theorem Completes.cause_or : t.cause = s.cause ∨ ∃ rt, i = .mtc0 rt .cause := by
  cases hc with
  | @setCause rt v hi => exact .inr ⟨rt, hi⟩
  | _ => simp

theorem Completes.epc_or : t.epc = s.epc ∨ ∃ rt, i = .mtc0 rt .epc := by
  cases hc with
  | @setEpc rt v hi => exact .inr ⟨rt, hi⟩
  | _ => simp

end

/-- Settles O53: a step that takes an exception is an exception entry from the sampled state, and a completion
writes a coprocessor-0 register only as `mtc0` of that register or as `rfe`. -/
theorem systemRegisterWriters : Obligations.SystemRegisterWriters := by
  intro s t hstep
  rcases step_completes hstep with ⟨e, rfl⟩ | ⟨i, hsel, hc⟩
  · have henter : ∃ c b, EntersException s.poll (s.poll.raise e) c b := ⟨_, _, s.poll.raise_enters e⟩
    exact ⟨State.raise_enters_of_badVAddr_ne, fun _ => .inl henter, fun _ => .inl henter, fun _ => .inl henter,
      rfl, rfl⟩
  · refine ⟨fun h => absurd hc.badVAddr h, fun h => ?_, fun h => ?_, fun h => ?_, hc.par, hc.stepNo⟩
    · rcases hc.status_or.resolve_left h with rfl | ⟨rt, rfl⟩
      · exact .inr (.inl hsel)
      · exact .inr (.inr ⟨rt, hsel⟩)
    · obtain ⟨rt, rfl⟩ := hc.cause_or.resolve_left h
      exact .inr ⟨rt, hsel⟩
    · obtain ⟨rt, rfl⟩ := hc.epc_or.resolve_left h
      exact .inr ⟨rt, hsel⟩

/-! ### What an instruction can depend on (R23) -/

/-- `s` with other general registers. -/
def State.withGpr (s : State) (g : Vector Word 31) : State := { s with gpr := g }

section
variable (s : State) (g : Vector Word 31)

@[simp] theorem State.withGpr_pc : (s.withGpr g).pc = s.pc := rfl
@[simp] theorem State.withGpr_hi : (s.withGpr g).hi = s.hi := rfl
@[simp] theorem State.withGpr_lo : (s.withGpr g).lo = s.lo := rfl
@[simp] theorem State.withGpr_par : (s.withGpr g).par = s.par := rfl
@[simp] theorem State.withGpr_byteAt (a : Word) : (s.withGpr g).byteAt a = s.byteAt a := rfl
@[simp] theorem State.withGpr_halfAt (a : Word) : (s.withGpr g).halfAt a = s.halfAt a := rfl
@[simp] theorem State.withGpr_wordAt (a : Word) : (s.withGpr g).wordAt a = s.wordAt a := rfl
@[simp] theorem State.withGpr_setPc (p : Word) : (s.withGpr g).setPc p = (s.setPc p).withGpr g := rfl
@[simp] theorem State.withGpr_advance : (s.withGpr g).advance = s.advance.withGpr g := rfl
@[simp] theorem State.withGpr_setHiLo (h l : Word) : (s.withGpr g).setHiLo h l = (s.setHiLo h l).withGpr g := rfl
@[simp] theorem State.withGpr_setByte (a : Word) (b : Byte) :
    (s.withGpr g).setByte a b = (s.setByte a b).withGpr g := rfl
@[simp] theorem State.withGpr_setHalf (a v : Word) : (s.withGpr g).setHalf a v = (s.setHalf a v).withGpr g := rfl
@[simp] theorem State.withGpr_setWord (a v : Word) : (s.withGpr g).setWord a v = (s.setWord a v).withGpr g := rfl

variable {s g} {r : Reg} (h : (s.withGpr g).reg r = s.reg r)
include h

@[simp] theorem State.withGpr_sreg : (s.withGpr g).sreg r = s.sreg r := congrArg _ h
@[simp] theorem State.withGpr_ureg : (s.withGpr g).ureg r = s.ureg r := congrArg _ h
@[simp] theorem State.withGpr_distance : (s.withGpr g).distance r = s.distance r := congrArg (·.extractLsb' 0 5) h
@[simp] theorem State.withGpr_effAddr (imm : Half) : (s.withGpr g).effAddr r imm = s.effAddr r imm :=
  congrArg (· + sextHalf imm) h
end

/-- The outcomes of `i` from `s` and from `s.withGpr g` agree in everything `i` may not read: both leave the general
registers alone, or both write the same value to the destination, or both are refused alike. -/
inductive Alike (i : Instr) (s : State) (g : Vector Word 31) : Result → Result → Prop
  | keeps {t : State} (hg : t.gpr = s.gpr) : Alike i s g (.next t) (.next (t.withGpr g))
  | writes {rd : Reg} (hd : destination i = some rd) (v p : Word) (k : Nat) :
      Alike i s g (.next (((s.setReg rd v).drew k).setPc p)) (.next ((((s.withGpr g).setReg rd v).drew k).setPc p))
  | refuses (x : Refusal) : Alike i s g (.refused x) (.refused x)

section
variable {i : Instr} {s : State} {g : Vector Word 31}

/-- The same value is written to the destination and the same address to `pc`. -/
theorem Alike.writes_of_eq {rd : Reg} {v v' p p' : Word} (hd : destination i = some rd) (hv : v' = v) (hp : p' = p) :
    Alike i s g (.next ((s.setReg rd v).setPc p)) (.next (((s.withGpr g).setReg rd v').setPc p')) := by
  subst hv hp
  exact .writes hd v' p' 0

/-- The same value is written to the destination and the next instruction follows. -/
theorem Alike.complete_of_eq {rd : Reg} {v v' : Word} (hd : destination i = some rd) (hv : v' = v) :
    Alike i s g (s.setReg rd v).complete ((s.withGpr g).setReg rd v').complete :=
  .writes_of_eq hd hv rfl

/-- The next states are the same but for the general registers, which both keep. -/
theorem Alike.keeps_of_eq {t t' : State} (hg : t.gpr = s.gpr) (h : t' = t.withGpr g) :
    Alike i s g (.next t) (.next t') :=
  h ▸ .keeps hg

theorem State.writeSigned_alike {rd : Reg} {r r' : Int} (hd : destination i = some rd) (hr : r' = r) :
    Alike i s g (s.writeSigned rd r) ((s.withGpr g).writeSigned rd r') := by
  subst hr
  unfold State.writeSigned
  split
  · exact .complete_of_eq hd rfl
  · exact .keeps rfl

theorem State.loadReg_alike {rt : Reg} {a a' v v' : Word} {n : Nat} (hd : destination i = some rt) (ha : a' = a)
    (hv : v' = v) : Alike i s g (s.loadReg a n rt v) ((s.withGpr g).loadReg a' n rt v') := by
  subst ha hv
  unfold State.loadReg
  rw [State.withGpr_par]
  split
  · exact .keeps rfl
  · exact .complete_of_eq hd rfl

theorem State.storeMem_alike {s' t' : State} {a a' : Word} {n : Nat} (hg : s'.gpr = s.gpr) (ha : a' = a)
    (ht : t' = s'.withGpr g) : Alike i s g (s.storeMem a n s') ((s.withGpr g).storeMem a' n t') := by
  subst ha ht
  unfold State.storeMem
  rw [State.withGpr_par]
  split
  · exact .keeps rfl
  · exact .keeps hg

theorem State.branchTo_alike {c c' : Bool} {target : Word} (hc : c' = c) :
    Alike i s g (s.branchTo c target) ((s.withGpr g).branchTo c' target) := by
  subst hc
  exact .keeps rfl

/-- `div` reads no more than its two operands. -/
theorem execDiv_alike {rs rt : Reg} (hrs : (s.withGpr g).reg rs = s.reg rs) (hrt : (s.withGpr g).reg rt = s.reg rt) :
    Alike i s g (execDiv rs rt s) (execDiv rs rt (s.withGpr g)) := by
  unfold execDiv State.sreg
  simp only [hrs, hrt, State.withGpr_par]
  split_ifs
  · exact .keeps rfl
  · exact .keeps rfl
  · exact .keeps rfl
  · split <;> exact .keeps rfl

/-- `divu` likewise. -/
theorem execDivu_alike {rs rt : Reg} (hrs : (s.withGpr g).reg rs = s.reg rs)
    (hrt : (s.withGpr g).reg rt = s.reg rt) :
    Alike i s g (execDivu rs rt s) (execDivu rs rt (s.withGpr g)) := by
  unfold execDivu State.ureg
  simp only [hrs, hrt]
  split_ifs <;> exact .keeps rfl

theorem execMfc0_alike {rt : Reg} {c : Cp0Reg} (hd : destination i = some rt) :
    Alike i s g (execMfc0 rt c s) (execMfc0 rt c (s.withGpr g)) := by
  cases c with
  | badVAddr | epc => exact .complete_of_eq hd rfl
  | status | cause => exact .writes hd _ _ 1
  | other n => exact .refuses _

theorem execMtc0_alike {rt : Reg} {c : Cp0Reg} (hrt : (s.withGpr g).reg rt = s.reg rt) :
    Alike i s g (execMtc0 rt c s) (execMtc0 rt c (s.withGpr g)) := by
  unfold execMtc0
  rw [hrt]
  cases c with
  | other n => exact .refuses _
  | _ => exact .keeps rfl

end

/-- An instruction whose sources read the same does the same. `h` becomes one equation for each register that R23
lists; then each shape of instruction has its lemma above. -/
theorem exec_alike (i : Instr) (s : State) (g : Vector Word 31)
    (h : ∀ r ∈ sources i, (s.withGpr g).reg r = s.reg r) : Alike i s g (exec i s) (exec i (s.withGpr g)) := by
  cases i
  all_goals
    simp only [sources, List.mem_cons, List.not_mem_nil, or_false, forall_eq_or_imp, forall_eq] at h
  case add | addi | sub => exact State.writeSigned_alike rfl (by simp [h])
  case lb | lbu | lh | lhu | lw | lwl | lwr => exact State.loadReg_alike rfl (by simp [h]) (by simp [h])
  case sb | sh | sw | swl | swr => exact State.storeMem_alike (by simp) (by simp [h]) (by simp [h])
  case beq | bne | bgez | bgtz | blez | bltz => exact State.branchTo_alike (by simp [h])
  case bgezal | bltzal => exact .writes_of_eq rfl rfl (by simp [h])
  case div => exact execDiv_alike h.1 h.2
  case divu => exact execDivu_alike h.1 h.2
  case mult | multu | mthi | mtlo | jr => exact .keeps_of_eq rfl (by simp [h])
  case jalr => exact .writes_of_eq rfl rfl h
  case j | syscall | rfe => exact .keeps rfl
  case mfc0 => exact execMfc0_alike rfl
  case mtc0 => exact execMtc0_alike h
  case lui | mfhi | mflo => exact .complete_of_eq rfl rfl
  case jal => exact .writes_of_eq rfl rfl rfl
  -- the other arithmetic, logical, shift and comparison instructions: one register from the sources alone
  all_goals exact .complete_of_eq rfl (by simp [h])

/-- Two states with the same general registers read them alike. -/
theorem State.reg_eq_of_gpr_eq {s t : State} (h : t.gpr = s.gpr) (r : Reg) : t.reg r = s.reg r := by
  simp [State.reg, h]

/-- Both writes of one value read the same in the register written: the value, or the zero of register 0. -/
theorem State.setReg_reg_self_eq (s t : State) (r : Reg) (v : Word) : (s.setReg r v).reg r = (t.setReg r v).reg r := by
  by_cases hr : r = 0#5
  · simp [hr]
  · rw [s.setReg_reg_same v hr, t.setReg_reg_same v hr]

/-- `Alike` outcomes in the terms of R23: the destination receives the same value or is left alone in both. -/
theorem Alike.reads {i : Instr} {s : State} {g : Vector Word 31} {o₁ o₂ : Result} (h : Alike i s g o₁ o₂) :
    (∃ t₁ t₂, o₁ = .next t₁ ∧ o₂ = .next t₂ ∧ t₂ = t₁.withGpr t₂.gpr ∧
      ∀ r : Reg, destination i = some r →
        t₁.reg r = t₂.reg r ∨ (t₁.reg r = s.reg r ∧ t₂.reg r = (s.withGpr g).reg r)) ∨
    (∃ x, o₁ = .refused x ∧ o₂ = .refused x) := by
  cases h with
  | @keeps t hg =>
    refine .inl ⟨t, t.withGpr g, rfl, rfl, rfl, fun r _ => .inr ⟨State.reg_eq_of_gpr_eq hg r, ?_⟩⟩
    exact State.reg_eq_of_gpr_eq rfl r
  | @writes rd hd v p k =>
    refine .inl ⟨_, _, rfl, rfl, rfl, fun r hr => .inl ?_⟩
    obtain rfl : rd = r := Option.some.inj (hd.symm.trans hr)
    exact s.setReg_reg_self_eq (s.withGpr g) rd v
  | refuses x => exact .inr ⟨x, rfl, rfl⟩

/-- Settles O50: the second state is the first with other general registers. -/
theorem readsOnlyTheListedRegisters : Obligations.ReadsOnlyTheListedRegisters := by
  intro i s₁ s₂ hs hsrc
  obtain ⟨g, rfl⟩ : ∃ g, s₂ = s₁.withGpr g := ⟨s₂.gpr, hs⟩
  exact (exec_alike i s₁ g fun r hr => (hsrc r hr).symm).reads

/-! ### The step under no interrupt (R26) -/

/-- The premise of R377 fails: interrupts are disabled, or no enabled line is pending. -/
theorem interruptPending_eq_false {st : Status} {c : Cause} :
    interruptPending st c = false ↔ st.iec = false ∨ c.ip &&& st.im = 0#8 := by
  cases h : st.iec <;> simp [interruptPending, h]

/-- An aligned and backed `pc` fetches its word (`20_memory.md` R68). -/
theorem State.fetch_eq_ok {s : State} (hpc : s.pc.toNat % 4 = 0)
    (hb : ∀ k < 4, backed s.par (s.pc + BitVec.ofNat 32 k) = true) : s.fetch = .ok (s.wordAt s.pc) := by
  simp [State.fetch, accessError_eq_none.2 ⟨hpc, allBacked_iff.2 hb⟩]

/-- With no interrupt, a fetched word that decodes selects its instruction. -/
theorem State.select_of_decode {s : State} {w : Word} {i : Instr} (hint : interruptPending s.status s.cause = false)
    (hf : s.fetch = .ok w) (hd : decode w = .ok i) : s.select = .ok i := by
  simp [State.select, hint, hf, hd]

/-- Settles O5: sampling changes neither the bytes fetched nor what points 2 to 4 test beyond `IP[7:2]`. -/
theorem stepRunsTheDecodedInstruction : Obligations.StepRunsTheDecodedInstruction := by
  intro s i hint hpc hb hdec
  have hword : decode (s.wordAt s.pc) = .ok i := by
    unfold State.wordAt joinWord
    cases he : s.par.endian <;> simpa [he] using hdec
  have hsel : s.poll.select = .ok i :=
    State.select_of_decode (interruptPending_eq_false.2 hint) (s.poll_fetch.trans (State.fetch_eq_ok hpc hb)) hword
  rcases step_cases s with ⟨e, hs, -⟩ | ⟨j, hs, hstep⟩ <;> cases hsel.symm.trans hs
  exact hstep

/-! ### The undefined coprocessor-0 registers (R37) -/

/-- A COP0 word with bits 10:0 zero decodes to `mfc0` of the register its `rd` field names (R105, R114). -/
theorem decode_encodeCop0_mfc0 (rt rd : BitVec 5) :
    decode (encodeCop0 0x00#5 rt rd) = .ok (.mfc0 rt (cp0RegOf rd)) := by
  simp [decode, decodeCop0, strict]

/-- The same for `mtc0`. -/
theorem decode_encodeCop0_mtc0 (rt rd : BitVec 5) :
    decode (encodeCop0 0x04#5 rt rd) = .ok (.mtc0 rt (cp0RegOf rd)) := by
  simp [decode, decodeCop0, strict]

/-- Settles O10: the number of an undefined register names `other n`, which both instructions refuse. -/
theorem undefinedCp0RegisterIsRefused : Obligations.UndefinedCp0RegisterIsRefused := by
  intro rt n s h8 h12 h13 h14
  have hn : cp0RegOf n = .other n := cp0RegOf_cp0Number (.other n) (Cp0Reg.wellFormed_other.2 ⟨h8, h12, h13, h14⟩)
  exact ⟨hn ▸ decode_encodeCop0_mfc0 rt n, rfl, hn ▸ decode_encodeCop0_mtc0 rt n, rfl⟩

/-! ### The launch (R39) -/

/-- Settles O48: every field of the launch is the one R39 fixes or the environment's own; register 0 reads zero. -/
theorem launchState : Obligations.LaunchState := fun l =>
  ⟨(State.launch l).reg_zero, rfl, rfl, rfl, rfl, rfl, rfl, rfl, rfl, rfl, rfl, rfl, rfl, rfl, rfl, rfl, rfl⟩

end Sys2Proof.Machine
end

section
/-! PROOFS for `20_memory.md`. What a store leaves at every address (R60, R67, R69); the alignment of the next `pc`
(R65); a word and the halfwords and bytes it is made of (R62); the fetch and its exceptions (R68); and a word stored
and loaded again (R76). -/

namespace Sys2Proof.Machine

/-! ### Stores and the bytes they may change (R60, R67, R69) -/

theorem State.setByte_byteAt_eq_or (s : State) (a x : Word) (b : Byte) :
    (s.setByte a b).byteAt x = s.byteAt x ∨ ∃ k < 1, x = a + BitVec.ofNat 32 k := by
  rw [State.setByte_byteAt]
  split
  next hx => exact .inr ⟨0, by decide, by simpa using hx⟩
  next => exact .inl rfl

theorem State.setHalf_byteAt_eq_or (s : State) (a v x : Word) :
    (s.setHalf a v).byteAt x = s.byteAt x ∨ ∃ k < 2, x = a + BitVec.ofNat 32 k := by
  rw [State.setHalf_byteAt]
  split_ifs with h₁ h₀
  · exact .inr ⟨1, by decide, h₁⟩
  · exact .inr ⟨0, by decide, by simpa using h₀⟩
  · exact .inl rfl

theorem State.setWord_byteAt_eq_or (s : State) (a v x : Word) :
    (s.setWord a v).byteAt x = s.byteAt x ∨ ∃ k < 4, x = a + BitVec.ofNat 32 k := by
  rw [State.setWord_byteAt]
  split_ifs with h₃ h₂ h₁ h₀
  · exact .inr ⟨3, by decide, h₃⟩
  · exact .inr ⟨2, by decide, h₂⟩
  · exact .inr ⟨1, by decide, h₁⟩
  · exact .inr ⟨0, by decide, by simpa using h₀⟩
  · exact .inl rfl

/-- A completing instruction leaves a byte as it was, or is a store with that byte in its span. -/
theorem Completes.byteAt_eq_or {i : Instr} {s t : State} (hc : Completes i s t) (x : Word) :
    t.byteAt x = s.byteAt x ∨
      ∃ a n, storeSpan i s = some (a, n) ∧ ∃ k < n, x = a + BitVec.ofNat 32 k := by
  cases hc with
  | @setByte a b hspan => exact (s.setByte_byteAt_eq_or a x b).imp_right fun hx => ⟨a, 1, hspan, hx⟩
  | @setHalf a v hspan => exact (s.setHalf_byteAt_eq_or a v x).imp_right fun hx => ⟨a, 2, hspan, hx⟩
  | @setWord a v hspan => exact (s.setWord_byteAt_eq_or a v x).imp_right fun hx => ⟨a, 4, hspan, hx⟩
  | _ => exact .inl rfl

/-- Settles O51: neither sampling nor exception entry writes memory, and a completion writes it only as a store. -/
theorem memoryChangesOnlyByStores : Obligations.MemoryChangesOnlyByStores := by
  intro s t x hstep hne
  rcases step_completes hstep with ⟨e, rfl⟩ | ⟨i, hsel, hc⟩
  · exact absurd (s.poll.raise_byteAt e x) hne
  · obtain ⟨a, n, hspan, hx⟩ := (hc.byteAt_eq_or x).resolve_left hne
    exact ⟨i, a, n, hsel, hspan, hx⟩

/-! ### Where `pc` goes (R25, R65, `45_branch_jump.md` R251, R262 to R265) -/

/-- Every `pc` that the instruction `i` can leave in `s`. -/
inductive NextPc (i : Instr) (s : State) : Word → Prop
  | follows : NextPc i s (s.pc + 4#32)
  | vector : NextPc i s excVector
  | branch (imm : Half) : NextPc i s (branchTarget s.pc imm)
  | jump (target : BitVec 26) : NextPc i s (jumpTarget s.pc target)
  | register {rs : Reg} (hi : i = .jr rs ∨ ∃ rd, i = .jalr rd rs) : NextPc i s (s.reg rs)

section
variable {i : Instr} {s t : State}

theorem State.writeSigned_nextPc {rd : Reg} {r : Int} (h : s.writeSigned rd r = .next t) : NextPc i s t.pc := by
  rcases s.writeSigned_cases rd r with ⟨-, -, hw⟩ | ⟨-, hw⟩ <;> cases hw.symm.trans h
  · exact .follows
  · exact .vector

theorem State.loadReg_nextPc {a : Word} {n : Nat} {rt : Reg} {v : Word} (h : s.loadReg a n rt v = .next t) :
    NextPc i s t.pc := by
  rcases s.loadReg_cases a n rt v with ⟨-, hl⟩ | ⟨e, -, hl⟩ <;> cases hl.symm.trans h
  · exact .follows
  · exact .vector

theorem State.storeMem_nextPc {s' : State} {a : Word} {n : Nat} (h : s.storeMem a n s' = .next t)
    (hpc : s'.pc = s.pc) : NextPc i s t.pc := by
  rcases s.storeMem_cases a n s' with ⟨-, hm⟩ | ⟨e, -, hm⟩ <;> cases hm.symm.trans h
  · rw [State.advance_pc, hpc]; exact .follows
  · exact .vector

theorem State.branchTo_nextPc {s' : State} {c : Bool} {imm : Half}
    (h : s'.branchTo c (branchTarget s.pc imm) = .next t) (hpc : s'.pc = s.pc) : NextPc i s t.pc := by
  cases h
  rw [State.setPc_pc, hpc]
  cases c with
  | true => exact .branch imm
  | false => exact .follows

end

theorem exec_nextPc {i : Instr} {s t : State} (h : exec i s = .next t) : NextPc i s t.pc := by
  cases i with
  | add | addi | sub => exact State.writeSigned_nextPc h
  | lb | lbu | lh | lhu | lw | lwl | lwr => exact State.loadReg_nextPc h
  | sb | sh | sw | swl | swr => exact State.storeMem_nextPc h (by simp)
  | beq | bne | bgez | bgtz | blez | bltz | bgezal | bltzal => exact State.branchTo_nextPc h (by simp)
  | j | jal => cases h; exact .jump _
  | jr => cases h; exact .register (.inl rfl)
  | jalr rd => cases h; exact .register (.inr ⟨rd, rfl⟩)
  | syscall => cases h; exact .vector
  | div rs rt =>
    obtain ⟨hi, lo, k, hdiv⟩ := execDiv_cases rs rt s
    cases hdiv.symm.trans h; exact .follows
  | divu rs rt =>
    obtain ⟨hi, lo, k, hdivu⟩ := execDivu_cases rs rt s
    cases hdivu.symm.trans h; exact .follows
  | mfc0 rt c =>
    rcases execMfc0_cases rt c s with ⟨v, k, hm⟩ | ⟨n, -, hm⟩ <;> cases hm.symm.trans h
    exact .follows
  | mtc0 rt c =>
    rcases execMtc0_cases rt c s with ⟨-, hm⟩ | ⟨-, hm⟩ | ⟨-, hm⟩ | ⟨-, hm⟩ | ⟨n, -, hm⟩ <;>
      cases hm.symm.trans h <;> exact .follows
  | _ => cases h; exact .follows

/-- The following instruction is aligned when this one is, also across the end of the address space (R25). -/
theorem add_four_aligned {a : Word} (h : a.toNat % 4 = 0) : (a + 4#32).toNat % 4 = 0 := by
  rw [BitVec.toNat_add, BitVec.toNat_ofNat]; omega

/-- A branch offset counts words (R108). -/
theorem branchTarget_aligned {a : Word} (h : a.toNat % 4 = 0) (imm : Half) : (branchTarget a imm).toNat % 4 = 0 := by
  have hnext := add_four_aligned h
  rw [branchTarget, BitVec.toNat_add, BitVec.toNat_shiftLeft, Nat.shiftLeft_eq]
  omega

/-- A jump target ends in two zero bits (R109). -/
theorem jumpTarget_aligned (a : Word) (target : BitVec 26) : (jumpTarget a target).toNat % 4 = 0 := by
  rw [jumpTarget, BitVec.toNat_append, BitVec.toNat_ofNat, Nat.zero_mod, Nat.or_zero, Nat.shiftLeft_eq]
  exact Nat.mul_mod_left _ _

/-- From an aligned `pc`, only a register's value may be misaligned. -/
theorem NextPc.aligned_or {i : Instr} {s : State} {p : Word} (h : NextPc i s p) (hpc : s.pc.toNat % 4 = 0) :
    p.toNat % 4 = 0 ∨ ∃ rs, (i = .jr rs ∨ ∃ rd, i = .jalr rd rs) ∧ p = s.reg rs := by
  cases h with
  | follows => exact .inl (add_four_aligned hpc)
  | vector => exact .inl rfl
  | branch imm => exact .inl (branchTarget_aligned hpc imm)
  | jump target => exact .inl (jumpTarget_aligned s.pc target)
  | @register rs hi => exact .inr ⟨rs, hi, rfl⟩

/-- Settles O29: the places `pc` can go are `NextPc`'s. -/
theorem pcStaysAligned : Obligations.PcStaysAligned := fun _ _ _ hpc hexec =>
  (exec_nextPc hexec).aligned_or hpc

/-! ### A word, its halfwords and its bytes under `ENDIAN` (R62) -/

/-- Four bytes in a row as a number. -/
theorem toNat_append_bytes (b₃ b₂ b₁ b₀ : Byte) :
    (b₃ ++ b₂ ++ b₁ ++ b₀).toNat = b₃.toNat * 2 ^ 24 + b₂.toNat * 2 ^ 16 + b₁.toNat * 2 ^ 8 + b₀.toNat := by
  simp only [BitVec.toNat_append]
  rw [← Nat.shiftLeft_add_eq_or_of_lt b₀.isLt, ← Nat.shiftLeft_add_eq_or_of_lt b₁.isLt,
    ← Nat.shiftLeft_add_eq_or_of_lt b₂.isLt]
  simp only [Nat.shiftLeft_eq]
  omega

/-- Each byte of a word built from four bytes lies in the place that the order gives it. -/
theorem joinWord_byte (e : Endian) (b : Nat → Byte) {k : Nat} (hk : k < 4) :
    (joinWord e (b 0) (b 1) (b 2) (b 3)).extractLsb' (bytePlace e 4 k) 8 = b k := by
  apply BitVec.eq_of_toNat_eq
  have h₀ := (b 0).isLt
  have h₁ := (b 1).isLt
  have h₂ := (b 2).isLt
  have h₃ := (b 3).isLt
  cases e <;>
  · simp only [joinWord, bytePlace, BitVec.extractLsb'_toNat, Nat.shiftRight_eq_div_pow]
    rw [toNat_append_bytes]
    interval_cases k <;> omega

/-- Two neighbouring bytes of a word, joined in the same order, are the half they make up: in each of the four cases
two adjacent fields. -/
theorem joinHalf_extractLsb' (e : Endian) (w : Word) {j : Nat} (hj : j < 2) :
    joinHalf e (w.extractLsb' (bytePlace e 4 (2 * j)) 8) (w.extractLsb' (bytePlace e 4 (2 * j + 1)) 8) =
      w.extractLsb' (2 * bytePlace e 2 j) 16 := by
  cases e <;> interval_cases j <;> exact BitVec.extractLsb'_append_extractLsb'_eq_extractLsb' rfl

@[simp] theorem State.advance_wordAt (s : State) (a : Word) : s.advance.wordAt a = s.wordAt a := rfl

theorem State.wordAt_byte (s : State) (a : Word) {k : Nat} (hk : k < 4) :
    (s.wordAt a).extractLsb' (bytePlace s.par.endian 4 k) 8 = s.byteAt (a + BitVec.ofNat 32 k) := by
  simpa [State.wordAt] using joinWord_byte s.par.endian (fun k => s.byteAt (a + BitVec.ofNat 32 k)) hk

theorem State.wordAt_half (s : State) (a : Word) {j : Nat} (hj : j < 2) :
    (s.wordAt a).extractLsb' (2 * bytePlace s.par.endian 2 j) 16 = s.halfAt (a + BitVec.ofNat 32 (2 * j)) := by
  have hnext : a + BitVec.ofNat 32 (2 * j) + 1#32 = a + BitVec.ofNat 32 (2 * j + 1) := by
    rw [BitVec.add_assoc, BitVec.ofNat_add]
  rw [State.halfAt, hnext, ← s.wordAt_byte a (by omega), ← s.wordAt_byte a (by omega), joinHalf_extractLsb' _ _ hj]

/-- A field of a word, zero-extended, as a shift and a mask. -/
theorem setWidth_extractLsb' (w : Word) (n m : Nat) :
    (w.extractLsb' n m).setWidth 32 = w >>> n &&& BitVec.ofNat 32 (2 ^ m - 1) := by
  apply BitVec.eq_of_getLsbD_eq
  intro i hi
  simp only [BitVec.getLsbD_setWidth, BitVec.getLsbD_extractLsb', BitVec.getLsbD_and, BitVec.getLsbD_ushiftRight,
    BitVec.getLsbD_ofNat, Nat.testBit_two_pow_sub_one, hi, decide_true, Bool.true_and, Bool.and_comm]

/-- The topmost field needs no mask. -/
theorem ushiftRight_and_mask (w : Word) {n m : Nat} (h : 32 ≤ n + m) :
    w >>> n &&& BitVec.ofNat 32 (2 ^ m - 1) = w >>> n := by
  apply BitVec.eq_of_getLsbD_eq
  intro i hi
  simp only [BitVec.getLsbD_and, BitVec.getLsbD_ushiftRight, BitVec.getLsbD_ofNat, Nat.testBit_two_pow_sub_one, hi,
    decide_true, Bool.true_and]
  by_cases hm : i < m
  · simp [hm]
  · rw [BitVec.getLsbD_of_ge w _ (by omega), Bool.false_and]

/-! ### The fetch and its exceptions (R68) -/

theorem extractLsb'_low_eq_zero_iff {a : Word} : a.extractLsb' 0 2 = 0#2 ↔ a.toNat % 4 = 0 := by
  rw [← BitVec.toNat_inj, BitVec.extractLsb'_toNat]
  rfl

/-- With no interrupt, a fetch exception is what the step takes. -/
theorem step_of_fetch_error {s : State} {e : Exc} (hint : interruptPending s.status s.poll.cause = false)
    (hf : s.fetch = .error e) : step s = .next (s.poll.raise e) := by
  have hsel : s.poll.select = .error e := by
    simp only [State.select, State.poll_status, State.poll_fetch, hint, hf]
    rfl
  rcases step_cases s with ⟨e', hs, hstep⟩ | ⟨i, hs, -⟩ <;> cases hsel.symm.trans hs
  exact hstep

/-- Not all backed: a byte is unbacked (R73). -/
theorem allBacked_eq_false_iff {p : Params} {a : Word} {n : Nat} :
    allBacked p a n = false ↔ ∃ k < n, backed p (a + BitVec.ofNat 32 k) = false := by
  rw [← Bool.not_eq_true, allBacked_iff]
  simp

theorem State.fetch_misaligned {s : State} (hpc : s.pc.toNat % 4 ≠ 0) : s.fetch = .error (.adEL s.pc) := by
  rcases s.fetch_cases with ⟨-, hf⟩ | ⟨h, -, -⟩ | ⟨h, -, -⟩
  · exact hf
  all_goals exact absurd h hpc

theorem State.fetch_unbacked {s : State} (hpc : s.pc.toNat % 4 = 0)
    (hk : ∃ k < 4, backed s.par (s.pc + BitVec.ofNat 32 k) = false) : s.fetch = .error .ibe := by
  rcases s.fetch_cases with ⟨h, -⟩ | ⟨-, -, hf⟩ | ⟨-, hb, -⟩
  · exact absurd hpc h
  · exact hf
  · cases hb.symm.trans (allBacked_eq_false_iff.2 hk)

/-- Settles O7: each premise gives the fetch's answer, and a fetch exception is the one the step takes. -/
theorem fetchFaults : Obligations.FetchFaults := by
  intro s hint
  have hno : interruptPending s.status s.poll.cause = false := interruptPending_eq_false.2 hint
  refine ⟨fun hpc => ?_, fun hpc hk => ?_, fun hpc hb => ?_⟩
  · have hf := State.fetch_misaligned (mt extractLsb'_low_eq_zero_iff.2 hpc)
    exact ⟨_, step_of_fetch_error hno hf, s.poll.raise_enters (.adEL s.pc)⟩
  · have hf := State.fetch_unbacked (extractLsb'_low_eq_zero_iff.1 hpc) hk
    exact ⟨_, step_of_fetch_error hno hf, s.poll.raise_enters .ibe⟩
  · have hf := State.fetch_eq_ok (extractLsb'_low_eq_zero_iff.1 hpc) hb
    exact ⟨_, hf, fun k => s.wordAt_byte s.pc⟩

/-! ### A word stored and loaded again (R62, R66, R67, R76) -/

/-- An aligned and backed load completes, and its register reads the value loaded. -/
theorem State.loadReg_reads {s : State} {a : Word} {n : Nat} {rd : Reg} (v : Word) (ha : a.toNat % n = 0)
    (hb : ∀ i < n, backed s.par (a + BitVec.ofNat 32 i) = true) (hrd : rd ≠ 0#5) :
    ∃ u, s.loadReg a n rd v = .next u ∧ u.reg rd = v := by
  have hok : accessError s.par .load a n = none := accessError_eq_none.2 ⟨ha, allBacked_iff.2 hb⟩
  rcases s.loadReg_cases a n rd v with ⟨-, hl⟩ | ⟨e, he, -⟩
  · exact ⟨_, hl, s.setReg_reg_same v hrd⟩
  · cases hok.symm.trans he

/-- An aligned and backed store completes. -/
theorem State.storeMem_stores {s : State} {a : Word} {n : Nat} (s' : State) (ha : a.toNat % n = 0)
    (hb : ∀ i < n, backed s.par (a + BitVec.ofNat 32 i) = true) : s.storeMem a n s' = .next s'.advance := by
  have hok : accessError s.par .store a n = none := accessError_eq_none.2 ⟨ha, allBacked_iff.2 hb⟩
  rcases s.storeMem_cases a n s' with ⟨-, hm⟩ | ⟨e, he, -⟩
  · exact hm
  · cases hok.symm.trans he

/-- The small offsets into a word are not changed by the sign extension. -/
theorem State.effAddr_ofNat (s : State) (rs : Reg) {k : Nat} (hk : k < 4) :
    s.effAddr rs (BitVec.ofNat 16 k) = s.reg rs + BitVec.ofNat 32 k := by
  interval_cases k <;> rfl

theorem State.effAddr_zero (s : State) (rs : Reg) : s.effAddr rs 0#16 = s.reg rs := by
  rw [s.effAddr_ofNat rs (k := 0) (by decide), BitVec.add_zero]

/-- Register `rs` holds the address of a word that is aligned and backed. -/
structure State.HoldsWordAddr (s : State) (rs : Reg) : Prop where
  aligned : (s.reg rs).toNat % 4 = 0
  backed : ∀ k < 4, Machine.backed s.par (s.reg rs + BitVec.ofNat 32 k) = true

section
variable {s : State} {rs rd : Reg} (h : s.HoldsWordAddr rs)
include h

/-- `sw` stores its register there, and leaves the address and the parameters as they are. -/
theorem State.HoldsWordAddr.exec_sw (rt : Reg) :
    ∃ t, exec (.sw rt rs 0#16) s = .next t ∧ t.HoldsWordAddr rs ∧ t.wordAt (t.reg rs) = s.reg rt ∧ t.par = s.par := by
  have hexec : exec (.sw rt rs 0#16) s = .next (s.setWord (s.reg rs) (s.reg rt)).advance := by
    have hst := State.storeMem_stores (s.setWord (s.reg rs) (s.reg rt)) h.aligned h.backed
    rw [← s.effAddr_zero rs] at hst ⊢
    exact hst
  exact ⟨_, hexec, ⟨by simpa using h.aligned, by simpa using h.backed⟩, by simp [State.setWord_wordAt], by simp⟩

/-- A load of the `j`-th of the `n`-byte pieces of the word completes. -/
theorem State.HoldsWordAddr.loadReg_part {n j : Nat} (hn : n ∣ 4) (hj : n * j + n ≤ 4) (v : Word)
    (hrd : rd ≠ 0#5) :
    ∃ u, s.loadReg (s.effAddr rs (BitVec.ofNat 16 (n * j))) n rd v = .next u ∧ u.reg rd = v := by
  have hpos : 0 < n := Nat.pos_of_dvd_of_pos hn (by decide)
  rw [s.effAddr_ofNat rs (by omega)]
  refine State.loadReg_reads v ?_ (fun i hi => ?_) hrd
  · have hrs : n ∣ (s.reg rs).toNat := hn.trans (Nat.dvd_of_mod_eq_zero h.aligned)
    rw [BitVec.toNat_add, BitVec.toNat_ofNat, Nat.add_mod_mod, Nat.mod_mod_of_dvd _ (hn.trans (by decide))]
    exact Nat.mod_eq_zero_of_dvd (hrs.add (Nat.dvd_mul_right n j))
  · rw [BitVec.add_assoc, ← BitVec.ofNat_add]
    exact h.backed _ (by omega)

variable (hrd : rd ≠ 0#5)
include hrd

theorem State.HoldsWordAddr.exec_lw :
    ∃ u, exec (.lw rd rs 0#16) s = .next u ∧ u.reg rd = s.wordAt (s.reg rs) := by
  obtain ⟨u, hu, hv⟩ := h.loadReg_part (n := 4) (j := 0) (by decide) (by decide) _ hrd
  exact ⟨u, hu, hv.trans (by rw [s.effAddr_zero])⟩

theorem State.HoldsWordAddr.exec_lhu {j : Nat} (hj : j < 2) :
    ∃ u, exec (.lhu rd rs (BitVec.ofNat 16 (2 * j))) s = .next u ∧
      u.reg rd = s.wordAt (s.reg rs) >>> (2 * bytePlace s.par.endian 2 j) &&& 0xFFFF#32 := by
  obtain ⟨u, hu, hv⟩ := h.loadReg_part (n := 2) (j := j) (by decide) (by omega) _ hrd
  refine ⟨u, hu, hv.trans ?_⟩
  rw [s.effAddr_ofNat rs (by omega), ← s.wordAt_half _ hj]
  exact setWidth_extractLsb' _ _ 16

theorem State.HoldsWordAddr.exec_lbu {k : Nat} (hk : k < 4) :
    ∃ u, exec (.lbu rd rs (BitVec.ofNat 16 k)) s = .next u ∧
      u.reg rd = s.wordAt (s.reg rs) >>> bytePlace s.par.endian 4 k &&& 0xFF#32 := by
  rw [← Nat.one_mul k]
  obtain ⟨u, hu, hv⟩ := h.loadReg_part (n := 1) (j := k) (by decide) (by omega) _ hrd
  refine ⟨u, hu, hv.trans ?_⟩
  rw [Nat.one_mul, s.effAddr_ofNat rs hk, ← s.wordAt_byte _ hk]
  exact setWidth_extractLsb' _ _ 8

end

/-- Settles O40: the word at the address is then the value stored, and each load reads its part of it. What is left at
the end is one equation per load between that part and the statement's, for either byte order. -/
theorem storedWordReadsBack : Obligations.StoredWordReadsBack := by
  intro rt rs rd s v hv haligned hb hrd
  have hs : s.HoldsWordAddr rs := ⟨by rw [haligned]; exact alignedWord_mod _, hb⟩
  obtain ⟨t, hsw, ht, hword, hpar⟩ := hs.exec_sw rt
  have hhalf : ∀ j < 2, ∀ x, v >>> (2 * bytePlace s.par.endian 2 j) &&& 0xFFFF#32 = x →
      ∃ u, exec (.lhu rd rs (BitVec.ofNat 16 (2 * j))) t = .next u ∧ u.reg rd = x := by
    rintro j hj x rfl
    rw [← hv, ← hword, ← hpar]
    exact ht.exec_lhu hrd hj
  have hbyte : ∀ k < 4, ∀ x, v >>> bytePlace s.par.endian 4 k &&& 0xFF#32 = x →
      ∃ u, exec (.lbu rd rs (BitVec.ofNat 16 k)) t = .next u ∧ u.reg rd = x := by
    rintro k hk x rfl
    rw [← hv, ← hword, ← hpar]
    exact ht.exec_lbu hrd hk
  have htopHalf : v >>> 16 &&& 0xFFFF#32 = v >>> 16 := ushiftRight_and_mask v (m := 16) (by decide)
  have htopByte : v >>> 24 &&& 0xFF#32 = v >>> 24 := ushiftRight_and_mask v (m := 8) (by decide)
  refine ⟨t, hsw, by rw [← hv, ← hword]; exact ht.exec_lw hrd, hhalf 0 (by decide) _ ?_, hhalf 1 (by decide) _ ?_,
    hbyte 0 (by decide) _ ?_, hbyte 1 (by decide) _ ?_, hbyte 2 (by decide) _ ?_, hbyte 3 (by decide) _ ?_⟩ <;>
  cases s.par.endian <;> simp [bytePlace, htopHalf, htopByte]

end Sys2Proof.Machine
end

section
/-! PROOFS for `30_encoding.md`, sections 1 and 3: decoding and encoding invert each other (R101 to R105, R116), the
opcode table and the decoder agree (R115, R120), and a reserved word raises `RI` (R118). -/

namespace Sys2Proof

/-! ### An encoded word decodes to its instruction (R102 to R105, R111 to R116) -/

theorem decode_encodeR (rs rt rd sh : BitVec 5) (fn : BitVec 6) :
    decode (encodeR rs rt rd sh fn) = decodeSpecial (encodeR rs rt rd sh fn) := by
  simp [decode]

theorem decode_encodeI_regimm (rs rt : BitVec 5) (imm : Half) :
    decode (encodeI 0x01#6 rs rt imm) = decodeRegimm (encodeI 0x01#6 rs rt imm) := by
  simp [decode]

theorem decode_encode_syscall (code : BitVec 20) : decode (encode (.syscall code)) = .ok (.syscall code) := by
  simp [decode, decodeSpecial]

/-- Settles O1: format by format, the decoder reads back the fields that the encoder wrote; the last line is the
R format. -/
theorem decodeInvertsEncode : Obligations.DecodeInvertsEncode := by
  intro i hwf
  cases i with
  | syscall code => exact decode_encode_syscall code
  | rfe => decide
  | mfc0 rt c => rw [encode, Machine.decode_encodeCop0_mfc0, cp0RegOf_cp0Number c hwf]
  | mtc0 rt c => rw [encode, Machine.decode_encodeCop0_mtc0, cp0RegOf_cp0Number c hwf]
  | j | jal => simp [encode, decode]
  | bltz | bgez | bltzal | bgezal => simp [encode, decode_encodeI_regimm, decodeRegimm]
  | beq | bne | addi | addiu | slti | sltiu | andi | ori | xori => simp [encode, decode]
  | blez | bgtz | lui => simp [encode, decode, strict]
  | lb | lh | lwl | lw | lbu | lhu | lwr | sb | sh | swl | sw | swr => simp [encode, decode]
  | _ => simp [encode, decode_encodeR, decodeSpecial, strict]

theorem decode_of_encode_eq {w : Word} {i : Instr} (hwf : i.wellFormed = true) (hw : encode i = w) :
    decode w = .ok i :=
  hw ▸ decodeInvertsEncode i hwf

/-- Settles O4: each word is the encoding of its instruction. -/
theorem sampleWordsDecode : Obligations.SampleWordsDecode := by
  refine ⟨?_, ?_, ?_, ?_, ?_, ?_, ?_, ?_, ?_, ?_, ?_, ?_, ?_, ?_, ?_, ?_, ?_, ?_, ?_⟩ <;>
    exact decode_of_encode_eq rfl rfl

/-! ### A word that decodes is the encoding of its instruction (R115, R116) -/

theorem encode_of_decodeSpecial {w : Word} {i : Instr} (hop : opField w = 0x00#6) (h : decodeSpecial w = .ok i) :
    i.wellFormed = true ∧ encode i = w := by
  have hw := encodeR_fields w hop
  unfold decodeSpecial at h
  split at h
  case h_9 hfunct => cases h; exact ⟨rfl, encode_syscall_fields w hop hfunct⟩
  case h_28 => cases h -- no line of R112
  all_goals
    rename_i hfunct
    obtain ⟨hzero, rfl⟩ := strict_eq_ok.1 h
    simp only [Bool.and_eq_true, beq_iff_eq] at hzero
    simp only [hfunct, hzero] at hw
    exact ⟨rfl, hw⟩

theorem encode_of_decodeRegimm {w : Word} {i : Instr} (hop : opField w = 0x01#6) (h : decodeRegimm w = .ok i) :
    i.wellFormed = true ∧ encode i = w := by
  have hw := encodeI_fields w
  unfold decodeRegimm at h
  split at h
  case h_5 => cases h -- no line of R113
  all_goals
    rename_i hrt
    cases h
    rw [hop, hrt] at hw
    exact ⟨rfl, hw⟩

/-- Settles O2: along the lines of R111, every field of the word is an operand, the instruction's own, or zero. -/
theorem encodeInvertsDecode : Obligations.EncodeInvertsDecode := by
  intro w i h
  have hI := encodeI_fields w
  have hJ := encodeJ_fields w
  unfold decode at h
  split at h
  case h_1 hop => exact encode_of_decodeSpecial hop h
  case h_2 hop => exact encode_of_decodeRegimm hop h
  case h_17 hop => exact encode_of_decodeCop0 hop h
  case h_3 hop | h_4 hop => -- `j`, `jal`
    cases h
    rw [hop] at hJ
    exact ⟨rfl, hJ⟩
  case h_7 hop | h_8 hop | h_16 hop => -- `blez`, `bgtz`, `lui`: behind the strict check
    obtain ⟨hzero, rfl⟩ := strict_eq_ok.1 h
    rw [hop, beq_iff_eq.1 hzero] at hI
    exact ⟨rfl, hI⟩
  case h_30 => cases h -- no line of R111
  all_goals -- the rest of the I format
    rename_i hop
    cases h
    rw [hop] at hI
    exact ⟨rfl, hI⟩

/-! ### The opcode table (R115, R120) -/

/-- The row of every instruction, collected from the lemmas made once per instruction. -/
theorem encode_fits_row (i : Instr) :
    ∃ row ∈ opcodeTable, row.mnemonic = i.mnemonic ∧ encode i &&& row.mask = row.value := by
  cases i with
  | sll => exact Laws.EncodingFitsRow.sll ..
  | srl => exact Laws.EncodingFitsRow.srl ..
  | sra => exact Laws.EncodingFitsRow.sra ..
  | sllv => exact Laws.EncodingFitsRow.sllv ..
  | srlv => exact Laws.EncodingFitsRow.srlv ..
  | srav => exact Laws.EncodingFitsRow.srav ..
  | jr => exact Laws.EncodingFitsRow.jr ..
  | jalr => exact Laws.EncodingFitsRow.jalr ..
  | syscall => exact Laws.EncodingFitsRow.syscall ..
  | mfhi => exact Laws.EncodingFitsRow.mfhi ..
  | mthi => exact Laws.EncodingFitsRow.mthi ..
  | mflo => exact Laws.EncodingFitsRow.mflo ..
  | mtlo => exact Laws.EncodingFitsRow.mtlo ..
  | mult => exact Laws.EncodingFitsRow.mult ..
  | multu => exact Laws.EncodingFitsRow.multu ..
  | div => exact Laws.EncodingFitsRow.div ..
  | divu => exact Laws.EncodingFitsRow.divu ..
  | add => exact Laws.EncodingFitsRow.add ..
  | addu => exact Laws.EncodingFitsRow.addu ..
  | sub => exact Laws.EncodingFitsRow.sub ..
  | subu => exact Laws.EncodingFitsRow.subu ..
  | and => exact Laws.EncodingFitsRow.and ..
  | or => exact Laws.EncodingFitsRow.or ..
  | xor => exact Laws.EncodingFitsRow.xor ..
  | nor => exact Laws.EncodingFitsRow.nor ..
  | slt => exact Laws.EncodingFitsRow.slt ..
  | sltu => exact Laws.EncodingFitsRow.sltu ..
  | bltz => exact Laws.EncodingFitsRow.bltz ..
  | bgez => exact Laws.EncodingFitsRow.bgez ..
  | bltzal => exact Laws.EncodingFitsRow.bltzal ..
  | bgezal => exact Laws.EncodingFitsRow.bgezal ..
  | j => exact Laws.EncodingFitsRow.j ..
  | jal => exact Laws.EncodingFitsRow.jal ..
  | beq => exact Laws.EncodingFitsRow.beq ..
  | bne => exact Laws.EncodingFitsRow.bne ..
  | blez => exact Laws.EncodingFitsRow.blez ..
  | bgtz => exact Laws.EncodingFitsRow.bgtz ..
  | addi => exact Laws.EncodingFitsRow.addi ..
  | addiu => exact Laws.EncodingFitsRow.addiu ..
  | slti => exact Laws.EncodingFitsRow.slti ..
  | sltiu => exact Laws.EncodingFitsRow.sltiu ..
  | andi => exact Laws.EncodingFitsRow.andi ..
  | ori => exact Laws.EncodingFitsRow.ori ..
  | xori => exact Laws.EncodingFitsRow.xori ..
  | lui => exact Laws.EncodingFitsRow.lui ..
  | mfc0 => exact Laws.EncodingFitsRow.mfc0 ..
  | mtc0 => exact Laws.EncodingFitsRow.mtc0 ..
  | rfe => exact Laws.EncodingFitsRow.rfe
  | lb => exact Laws.EncodingFitsRow.lb ..
  | lh => exact Laws.EncodingFitsRow.lh ..
  | lwl => exact Laws.EncodingFitsRow.lwl ..
  | lw => exact Laws.EncodingFitsRow.lw ..
  | lbu => exact Laws.EncodingFitsRow.lbu ..
  | lhu => exact Laws.EncodingFitsRow.lhu ..
  | lwr => exact Laws.EncodingFitsRow.lwr ..
  | sb => exact Laws.EncodingFitsRow.sb ..
  | sh => exact Laws.EncodingFitsRow.sh ..
  | swl => exact Laws.EncodingFitsRow.swl ..
  | sw => exact Laws.EncodingFitsRow.sw ..
  | swr => exact Laws.EncodingFitsRow.swr ..

theorem row_of_decode {w : Word} {i : Instr} (h : decode w = .ok i) :
    ∃ row ∈ opcodeTable, row.mnemonic = i.mnemonic ∧ w &&& row.mask = row.value := by
  obtain ⟨-, rfl⟩ := encodeInvertsDecode w i h
  exact encode_fits_row i

/-- A word under a mask, field by field. -/
theorem fields_of_and_eq {w mask value : Word} (h : w &&& mask = value) :
    opField w &&& opField mask = opField value ∧ rsField w &&& rsField mask = rsField value ∧
      rtField w &&& rtField mask = rtField value ∧ rdField w &&& rdField mask = rdField value ∧
      shamtField w &&& shamtField mask = shamtField value ∧ functField w &&& functField mask = functField value := by
  subst h
  simp only [opField, rsField, rtField, rdField, shamtField, functField, BitVec.extractLsb'_and, and_self]

/-- Row by row: the mask and match give the fields that the decoder tests, and these lead to the row's instruction. -/
theorem decode_of_row {w : Word} {row : OpcodeRow} (hrow : row ∈ opcodeTable) (hw : w &&& row.mask = row.value) :
    ∃ i, decode w = .ok i ∧ i.mnemonic = row.mnemonic := by
  have hfields := fields_of_and_eq hw
  have hones₅ : ∀ x : BitVec 5, x &&& 0x1F#5 = x := fun _ => BitVec.and_allOnes
  have hones₆ : ∀ x : BitVec 6, x &&& 0x3F#6 = x := fun _ => BitVec.and_allOnes
  have hones₃₂ : ∀ x : Word, x &&& 0xFFFFFFFF#32 = x := fun _ => BitVec.and_allOnes
  fin_cases hrow <;>
  · simp [opField, rsField, rtField, rdField, shamtField, functField, hones₅, hones₆, hones₃₂] at hw hfields
    simp [decode, decodeSpecial, decodeRegimm, decodeCop0, strict, opField, rsField, rtField, rdField, shamtField,
      functField, hw, hfields, Instr.mnemonic]

theorem opcodeTable_mnemonics_nodup : (opcodeTable.map OpcodeRow.mnemonic).Nodup := by decide

/-- Two rows that a word matches name the one instruction it decodes to, so they are the same row. -/
theorem row_unique {w : Word} {r₁ r₂ : OpcodeRow} (h₁ : r₁ ∈ opcodeTable) (h₂ : r₂ ∈ opcodeTable)
    (hw₁ : w &&& r₁.mask = r₁.value) (hw₂ : w &&& r₂.mask = r₂.value) : r₁ = r₂ := by
  obtain ⟨i, hi, hm₁⟩ := decode_of_row h₁ hw₁
  obtain ⟨j, hj, hm₂⟩ := decode_of_row h₂ hw₂
  cases hi.symm.trans hj
  exact List.inj_on_of_nodup_map opcodeTable_mnemonics_nodup h₁ h₂ (hm₁.symm.trans hm₂)

/-- Settles O3: from the row of each instruction and the instruction of each row. -/
theorem decodeFollowsTheOpcodeTable : Obligations.DecodeFollowsTheOpcodeTable :=
  ⟨rfl, fun _ _ => row_of_decode, fun _ _ => decode_of_row, fun _ _ h₁ _ h₂ => row_unique h₁ h₂⟩

/-! ### Reserved words (R118) -/

theorem decode_error_iff {w : Word} :
    (∃ r, decode w = .error r) ↔ ∀ row ∈ opcodeTable, w &&& row.mask ≠ row.value := by
  constructor
  · rintro ⟨r, hr⟩ row hrow hw
    obtain ⟨i, hi, -⟩ := decode_of_row hrow hw
    cases hr.symm.trans hi
  · intro hno
    cases hd : decode w with
    | error r => exact ⟨r, rfl⟩
    | ok i =>
      obtain ⟨row, hrow, -, hw⟩ := row_of_decode hd
      exact absurd hw (hno row hrow)

end Sys2Proof

namespace Sys2Proof.Machine

/-- With no interrupt, a fetched reserved word raises `RI`. -/
theorem step_of_decode_error {s : State} {w : Word} {r : Reserved}
    (hint : interruptPending s.status s.poll.cause = false) (hf : s.fetch = .ok w) (hd : decode w = .error r) :
    step s = .next (s.poll.raise .ri) := by
  have hsel : s.poll.select = .error .ri := by
    simp [State.select, -State.poll_cause, hint, hf, hd]
  rcases step_cases s with ⟨e, hs, hstep⟩ | ⟨i, hs, -⟩ <;> cases hsel.symm.trans hs
  exact hstep

/-- Settles O8: a word matches no row exactly when it is reserved, and the decoder rejects the words of the absent
instructions. -/
theorem reservedWordRaisesRI : Obligations.ReservedWordRaisesRI := by
  refine ⟨fun s w hint hf hno => ?_, fun w hw => decode_error_iff.1 ?_⟩
  · obtain ⟨r, hr⟩ := decode_error_iff.2 hno
    exact ⟨_, step_of_decode_error (interruptPending_eq_false.2 hint) hf hr, s.poll.raise_enters .ri⟩
  · rcases hw with hword | hop
    · fin_cases hword <;> exact ⟨_, rfl⟩
    · refine ⟨.primaryOpcode, ?_⟩
      change opField w ∈ _ at hop
      simp only [List.mem_cons, List.not_mem_nil, or_false] at hop
      rcases hop with h | h | h | h | h | h | h | h | h | h | h | h <;> simp [decode, h]

end Sys2Proof.Machine
end

section
/-! PROOFS for `30_encoding.md`, section 4: the expansions of pseudo-instructions with a label or a `src2` operand
(R123, R128). First code that runs from top to bottom, then the branches, the multiplications and divisions, and the
two expansions that trap on overflow. -/

namespace Sys2Proof.Machine

/-! ### Code that runs from top to bottom -/

/-- `code` runs from `s` to `t`: each instruction completes and the next one follows it in memory. -/
inductive Straight : List Instr → State → State → Prop
  | nil {s : State} : Straight [] s s
  | cons {i : Instr} {code : List Instr} {s m t : State} (hexec : exec i s = .next m) (hpc : m.pc = s.pc + 4#32)
      (h : Straight code m t) : Straight (i :: code) s t

theorem Straight.append {before after : List Instr} {s m t : State} (h : Straight before s m)
    (h' : Straight after m t) : Straight (before ++ after) s t := by
  induction h with
  | nil => exact h'
  | cons hexec hpc _ ih => exact .cons hexec hpc (ih h')

/-- Addresses of a block, counted in instructions. -/
theorem add_instrs (base : Word) (k j : Nat) :
    base + BitVec.ofNat 32 (4 * k) + BitVec.ofNat 32 (4 * j) = base + BitVec.ofNat 32 (4 * (k + j)) := by
  rw [BitVec.add_assoc, ← BitVec.ofNat_add, Nat.mul_add]

theorem Straight.pc {code : List Instr} {s t : State} (h : Straight code s t) :
    t.pc = s.pc + BitVec.ofNat 32 (4 * code.length) := by
  induction h with
  | nil => simp
  | cons hexec hpc h ih => rw [ih, hpc, List.length_cons, Nat.add_comm, ← add_instrs]

/-- Straight code inside a block: the block goes on from where it ends. -/
theorem runBlock_straight_within {code : List Instr} {s t : State} (h : Straight code s t) {base : Word}
    (before after : List Instr) (hpc : s.pc = base + BitVec.ofNat 32 (4 * before.length))
    (hlen : before.length + code.length ≤ 2 ^ 30) (n : Nat) :
    runBlock base (before ++ code ++ after) (code.length + n) s = runBlock base (before ++ code ++ after) n t := by
  induction h generalizing before with
  | nil => simp
  | @cons i code s m t hexec hnext _ ih =>
    rw [List.length_cons] at hlen
    have hm : m.pc = base + BitVec.ofNat 32 (4 * (before ++ [i]).length) := by
      rw [hnext, hpc, List.length_append, ← add_instrs]; rfl
    rw [List.length_cons, Nat.add_right_comm, runBlock_next hpc (by omega) (by simp) hexec]
    simpa using ih (before ++ [i]) hm (by rw [List.length_append]; simp; omega)

/-- Straight code at the head of a block. -/
theorem runBlock_straight {code : List Instr} {s t : State} (h : Straight code s t) (hlen : code.length ≤ 2 ^ 30)
    (after : List Instr) (n : Nat) :
    runBlock s.pc (code ++ after) (code.length + n) s = runBlock s.pc (code ++ after) n t := by
  simpa using runBlock_straight_within h [] after (by simp) (by simpa using hlen) n

/-- A block of straight code. -/
theorem runBlock_straight_all {code : List Instr} {s t : State} (h : Straight code s t) (hlen : code.length ≤ 2 ^ 30) :
    runBlock s.pc code code.length s = .next t := by
  simpa [runBlock_zero] using runBlock_straight h hlen [] 0

/-! ### The operand `src2` (R128) -/

/-- The state in which the register expansion begins: `src2` is in place. -/
def afterSrc2 (s : State) (c : Src2) : State := (withSrc2 s c).setPc (s.pc + BitVec.ofNat 32 (4 * src2Size c))

section
variable (s : State) (c : Src2)

theorem straight_src2Code : Straight (src2Code c) s (afterSrc2 s c) := by
  cases c with
  | reg r =>
    have h : afterSrc2 s (.reg r) = s := by simp [afterSrc2, src2Size, State.setPc]
    rw [h]
    exact .nil
  | imm k =>
    obtain ⟨i, hcode, hexec⟩ := src2Code_imm k
    rw [hcode]
    exact .cons (hexec s) rfl .nil

@[simp] theorem afterSrc2_par : (afterSrc2 s c).par = s.par := by cases c <;> rfl
@[simp] theorem afterSrc2_draws : (afterSrc2 s c).draws = s.draws := by cases c <;> rfl

theorem afterSrc2_src2Reg : (afterSrc2 s c).reg (src2Reg c) = src2Value s c := withSrc2_src2Reg s c

variable {s c} in
theorem afterSrc2_reg_other {r : Reg} (hr : r ≠ 1#5) : (afterSrc2 s c).reg r = s.reg r := withSrc2_reg_other s c hr

theorem afterSrc2_sameHiLo : SameHiLo s (afterSrc2 s c) := by cases c <;> exact ⟨rfl, rfl⟩

theorem afterSrc2_sameMemory : SameMemory s (afterSrc2 s c) := by cases c <;> exact fun _ => rfl

theorem afterSrc2_sameSystem : SameSystem s (afterSrc2 s c) := by cases c <;> exact ⟨rfl, rfl, rfl, rfl, rfl, rfl⟩

end

theorem src2Code_append_length (c : Src2) (code : List Instr) :
    (src2Code c ++ code).length = code.length + src2Size c := by
  rw [List.length_append, src2Code_length, Nat.add_comm]

theorem src2Size_le (c : Src2) : src2Size c ≤ 1 := by cases c <;> simp [src2Size]

/-! ### What the assembler accepts (R127) -/

theorem expand_eq_some {base : Word} {p : Pseudo} {code : List Instr} (h : expand base p = some code) :
    pseudoCode base p = some code := by
  unfold expand at h
  split at h
  · exact h
  · cases h

/-- The assembler accepts a three-operand pseudo-instruction none of whose operands is `$at` (R127); `extra` is what
else it asks of that pseudo-instruction (U17). -/
theorem expand_of_ne_at {base : Word} {p : Pseudo} {d a : Reg} {c : Src2} {extra : Bool}
    (hp : pseudoLegal p = ((d :: a :: src2Regs c).all (· != Reg.at) && extra)) (hextra : extra = true)
    (hd : d ≠ 1#5) (ha : a ≠ 1#5) (hc : c ≠ .reg 1#5) : expand base p = pseudoCode base p := by
  have hregs : (src2Regs c).all (· != Reg.at) = true := by
    cases c with
    | reg r => simpa [src2Regs, Reg.at] using hc
    | imm k => rfl
  rw [List.all_cons, List.all_cons, hregs, show (d != Reg.at) = true from bne_iff_ne.2 hd,
    show (a != Reg.at) = true from bne_iff_ne.2 ha, hextra] at hp
  exact if_pos hp

/-! ### Branches to a label (R108, R123) -/

theorem sextHalf_ofInt {d : Int} (hlo : -32768 ≤ d) (hhi : d ≤ 32767) :
    sextHalf (BitVec.ofInt 16 d) = BitVec.ofInt 32 d := by
  rw [sextHalf, BitVec.signExtend, BitVec.toInt_ofInt_eq_self (by decide) (by omega) (by omega)]

/-- R123 inverts R108: a branch whose field the assembler computes goes to its label. -/
theorem branchTarget_of_branchField {b l : Word} {imm : Half} (h : branchField b l = some imm) :
    branchTarget b imm = l := by
  unfold branchField at h
  simp only [Option.ite_none_right_eq_some, Option.some.injEq] at h
  obtain ⟨⟨hmod, hlo, hhi⟩, rfl⟩ := h
  have hfour : (l - (b + 4#32)).toInt / 4 * 4 = (l - (b + 4#32)).toInt := by omega
  have hshift : ∀ x : Word, x <<< 2 = x * BitVec.ofInt 32 4 := fun x => by
    apply BitVec.eq_of_toNat_eq
    simp [BitVec.toNat_shiftLeft, Nat.shiftLeft_eq]
  rw [branchTarget, sextHalf_ofInt (by omega) (by omega), hshift, ← BitVec.ofInt_mul, hfour, BitVec.ofInt_toInt]
  rw [BitVec.add_comm, BitVec.sub_add_cancel]

/-- `code` at `s.pc` runs to `label` if `taken` and to its end otherwise, and changes no register but `$at`. -/
def BranchesTo (s : State) (code : List Instr) (label : Word) (taken : Bool) : Prop :=
  ∃ t, runBlock s.pc code code.length s = .next t ∧
    t.pc = (if taken then label else s.pc + BitVec.ofNat 32 (4 * code.length)) ∧
    (∀ r : Reg, r ≠ 1#5 → t.reg r = s.reg r) ∧ SameHiLo s t ∧ SameMemory s t ∧ SameSystem s t

/-- Straight code, then the branch. -/
theorem branchesTo_of_straight {s m : State} {before code : List Instr} {branch : Half → Instr} {label : Word}
    {taken : Bool} (hcode : branchLast s.pc before branch label = some code) (hlen : before.length < 2 ^ 30)
    (h : Straight before s m) (hbranch : ∀ imm, exec (branch imm) m = m.branchTo taken (branchTarget m.pc imm))
    (hregs : ∀ r : Reg, r ≠ 1#5 → m.reg r = s.reg r) (hhilo : SameHiLo s m) (hmem : SameMemory s m)
    (hsys : SameSystem s m) : BranchesTo s code label taken := by
  obtain ⟨imm, hfield, rfl⟩ := Option.map_eq_some_iff.1 hcode
  rw [← h.pc] at hfield
  refine ⟨m.setPc (if taken then label else m.pc + 4#32), ?_, ?_, hregs, hhilo, hmem, hsys⟩
  · rw [List.length_append, List.length_singleton, runBlock_straight h hlen.le,
      runBlock_next h.pc hlen (by simp) (hbranch imm), runBlock_zero, branchTarget_of_branchField hfield]
  · rw [State.setPc_pc, List.length_append, List.length_singleton, ← add_instrs, ← h.pc]

/-- A branch on registers as they are. -/
theorem branchesTo_of_branch {s : State} {code : List Instr} {branch : Half → Instr} {label : Word} {taken : Bool}
    (hcode : branchLast s.pc [] branch label = some code)
    (hbranch : ∀ imm, exec (branch imm) s = s.branchTo taken (branchTarget s.pc imm)) :
    BranchesTo s code label taken :=
  branchesTo_of_straight hcode (by decide) .nil hbranch (fun _ _ => rfl) ⟨rfl, rfl⟩ (fun _ => rfl)
    ⟨rfl, rfl, rfl, rfl, rfl, rfl⟩

/-- A comparison into `$at` behind `src2`, then a branch on `$at`. -/
theorem branchesTo_of_compare {s : State} {c : Src2} {cmp : Instr} {code : List Instr} {branch : Half → Instr}
    {label v : Word} {taken : Bool} (hcode : branchLast s.pc (src2Code c ++ [cmp]) branch label = some code)
    (hcmp : exec cmp (afterSrc2 s c) = ((afterSrc2 s c).setReg Reg.at v).complete)
    (hbranch : ∀ imm m, m.reg Reg.at = v → exec (branch imm) m = m.branchTo taken (branchTarget m.pc imm)) :
    BranchesTo s code label taken := by
  have hlen : (src2Code c ++ [cmp]).length < 2 ^ 30 := by
    have hsize := src2Size_le c
    rw [src2Code_append_length, List.length_singleton]
    omega
  refine branchesTo_of_straight hcode hlen ((straight_src2Code s c).append (.cons hcmp rfl .nil))
    (fun imm => hbranch imm _ (State.setReg_reg_same _ _ (by decide))) (fun r hr => ?_) (afterSrc2_sameHiLo s c)
    (afterSrc2_sameMemory s c) (afterSrc2_sameSystem s c)
  rw [State.advance_reg, State.setReg_reg_other (r := Reg.at) _ _ hr, afterSrc2_reg_other hr]

theorem boolWord_eq_zero {p : Bool} : boolWord p = 0#32 ↔ p = false := by cases p <;> decide

theorem exec_beq_zero (a : Reg) (imm : Half) (s : State) :
    exec (.beq a Reg.zero imm) s = s.branchTo (decide (s.reg a = 0#32)) (branchTarget s.pc imm) := by
  show s.branchTo (s.reg a == s.reg 0#5) _ = _
  rw [State.reg_zero]
  rfl

theorem exec_bne_zero (a : Reg) (imm : Half) (s : State) :
    exec (.bne a Reg.zero imm) s = s.branchTo (decide (s.reg a ≠ 0#32)) (branchTarget s.pc imm) := by
  show s.branchTo (s.reg a != s.reg 0#5) _ = _
  rw [State.reg_zero, decide_not]
  rfl

/-- `cmp` writes to its first register whether `rel` holds of the other two (`44_comparison.md` R230, R231). -/
def Compares (cmp : Reg → Reg → Reg → Instr) (rel : Word → Word → Bool) : Prop :=
  ∀ (rd rs rt : Reg) (s : State),
    exec (cmp rd rs rt) s = (s.setReg rd (boolWord (rel (s.reg rs) (s.reg rt)))).complete

theorem slt_compares : Compares .slt fun v w => decide (v.toInt < w.toInt) := fun _ _ _ _ => rfl

theorem sltu_compares : Compares .sltu fun v w => decide (v.toNat < w.toNat) := fun _ _ _ _ => rfl

section
variable {s : State} {c : Src2} {cmp : Reg → Reg → Reg → Instr} {rel : Word → Word → Bool} (hcmp : Compares cmp rel)
  {x y : Reg} {v w : Word} (hx : (afterSrc2 s c).reg x = v) (hy : (afterSrc2 s c).reg y = w)
  {code : List Instr} {label : Word}
include hcmp hx hy

theorem branchesTo_of_compare_bne
    (hcode : branchLast s.pc (src2Code c ++ [cmp Reg.at x y]) (.bne Reg.at Reg.zero) label = some code) :
    BranchesTo s code label (rel v w) := by
  subst hx hy
  refine branchesTo_of_compare hcode (hcmp _ _ _ _) fun imm m hm => ?_
  rw [exec_bne_zero, hm]
  simp [boolWord_eq_zero]

theorem branchesTo_of_compare_beq {taken : Bool} (htaken : taken = true ↔ ¬rel v w = true)
    (hcode : branchLast s.pc (src2Code c ++ [cmp Reg.at x y]) (.beq Reg.at Reg.zero) label = some code) :
    BranchesTo s code label taken := by
  subst hx hy
  refine branchesTo_of_compare hcode (hcmp _ _ _ _) fun imm m hm => ?_
  rw [exec_beq_zero, hm]
  simp only [boolWord_eq_zero, ← Bool.not_eq_true, ← htaken, Bool.decide_eq_true]

end

theorem decide_le_iff {α : Type} [LinearOrder α] (x y : α) [Decidable (x ≤ y)] [Decidable (y < x)] :
    decide (x ≤ y) = true ↔ ¬decide (y < x) = true := by
  simp

/-- Settles O56: `b`, `beqz`, `bnez` are one branch; the others branch on the comparison they leave in `$at`, a register
operand being the `src2` that needs no code. -/
theorem pseudoBranches : Obligations.PseudoBranches := by
  intro a b c label s ha _ _
  have hleft : ∀ c, (afterSrc2 s c).reg a = s.reg a := fun c => afterSrc2_reg_other ha
  have hright : ∀ c, (afterSrc2 s c).reg (src2Reg c) = src2Value s c := afterSrc2_src2Reg s
  simp only [List.forall_mem_cons]
  refine ⟨fun code h => ?b, fun code h => ?beqz, fun code h => ?bge, fun code h => ?bgeu, fun code h => ?bgt,
    fun code h => ?bgtu, fun code h => ?ble, fun code h => ?bleu, fun code h => ?blt, fun code h => ?bltu,
    fun code h => ?bnez, List.forall_mem_nil _⟩ <;>
  replace h := expand_eq_some h
  case b => exact branchesTo_of_branch h fun imm => exec_beq_zero _ imm s
  case beqz => exact branchesTo_of_branch h fun imm => exec_beq_zero a imm s
  case bnez => exact branchesTo_of_branch h fun imm => exec_bne_zero a imm s
  case bge => exact branchesTo_of_compare_beq slt_compares (hleft _) (hright (.reg b)) (decide_le_iff _ _) h
  case bgeu => exact branchesTo_of_compare_beq sltu_compares (hleft _) (hright (.reg b)) (decide_le_iff _ _) h
  case bgt => exact branchesTo_of_compare_bne slt_compares (hright c) (hleft c) h
  case bgtu => exact branchesTo_of_compare_bne sltu_compares (hright c) (hleft c) h
  case ble => exact branchesTo_of_compare_beq slt_compares (hright c) (hleft c) (decide_le_iff _ _) h
  case bleu => exact branchesTo_of_compare_beq sltu_compares (hright c) (hleft c) (decide_le_iff _ _) h
  case blt => exact branchesTo_of_compare_bne slt_compares (hleft _) (hright (.reg b)) h
  case bltu => exact branchesTo_of_compare_bne sltu_compares (hleft _) (hright (.reg b)) h

/-! ### What a multiplication or division leaves depends on its two operands only (R146 to R149) -/

/-- If the outcome `o₁` of an instruction from `s₁` completes, the outcome `o` from `s` writes the same `hi` and `lo`,
and may draw free words. -/
def SameHiLoWrite (s : State) (o o₁ : Result) : Prop :=
  ∀ t, o₁ = .next t → ∃ k, o = .next ((s.setHiLo t.hi t.lo).drew k).advance

section
variable {s s₁ : State}

theorem sameHiLoWrite_setHiLo (h l : Word) :
    SameHiLoWrite s (s.setHiLo h l).complete (s₁.setHiLo h l).complete := by
  rintro t ⟨⟩
  exact ⟨0, rfl⟩

theorem sameHiLoWrite_drawHiLo (hdraws : s₁.draws = s.draws) : SameHiLoWrite s s.drawHiLo s₁.drawHiLo := by
  rintro t ⟨⟩
  exact ⟨2, by simp [State.drawHiLo, State.complete, State.free, hdraws]⟩

variable {a b a' b' : Reg} (ha : s₁.reg a' = s.reg a) (hb : s₁.reg b' = s.reg b)
include ha hb

theorem execMult_sameHiLoWrite : SameHiLoWrite s (execMult a b s) (execMult a' b' s₁) := by
  unfold execMult State.sreg
  rw [ha, hb]
  exact sameHiLoWrite_setHiLo _ _

theorem execDivu_sameHiLoWrite (hdraws : s₁.draws = s.draws) :
    SameHiLoWrite s (execDivu a b s) (execDivu a' b' s₁) := by
  unfold execDivu State.ureg
  rw [ha, hb]
  dsimp only
  split
  · exact sameHiLoWrite_drawHiLo hdraws
  · exact sameHiLoWrite_setHiLo _ _

theorem execDiv_sameHiLoWrite (hpar : s₁.par = s.par) (hdraws : s₁.draws = s.draws) :
    SameHiLoWrite s (execDiv a b s) (execDiv a' b' s₁) := by
  unfold execDiv State.sreg
  rw [ha, hb, hpar]
  dsimp only
  split
  · exact sameHiLoWrite_drawHiLo hdraws
  split
  · exact sameHiLoWrite_setHiLo _ _
  split
  · exact sameHiLoWrite_setHiLo _ _
  split
  · exact sameHiLoWrite_setHiLo _ _
  · exact sameHiLoWrite_drawHiLo hdraws

end

/-! ### `div`, `divu`, `mul`, `rem`, `remu` (`40_arithmetic.md` R151 to R153, R158, R159) -/

theorem setReg_onlyReg {s m : State} (hregs : SameRegs s m) (d : Reg) (v : Word) : OnlyReg s (m.setReg d v) d v :=
  ⟨m.setReg_reg_same v, State.reg_zero _, fun r hr => (m.setReg_reg_other v hr).trans (hregs r)⟩

theorem exec_mflo {m : State} {d : Reg} {l : Word} (h : m.lo = l) : exec (.mflo d) m = (m.setReg d l).complete := by
  rw [← h]; rfl

theorem exec_mfhi {m : State} {d : Reg} {h : Word} (hm : m.hi = h) : exec (.mfhi d) m = (m.setReg d h).complete := by
  rw [← hm]; rfl

/-- The low half of a signed 64-bit value is that value modulo 2^32. -/
theorem ofInt_low (z : Int) : (BitVec.ofInt 64 z).extractLsb' 0 32 = BitVec.ofInt 32 z := by
  apply BitVec.eq_of_toNat_eq
  simp only [BitVec.extractLsb'_toNat, BitVec.toNat_ofInt, Nat.shiftRight_zero]
  omega

/-- The low half of the signed product is the product of the words. -/
theorem product_low (x y : Word) : (BitVec.ofInt 64 (x.toInt * y.toInt)).extractLsb' 0 32 = x * y := by
  rw [ofInt_low, BitVec.ofInt_mul, BitVec.ofInt_toInt, BitVec.ofInt_toInt]

/-- `src2`, then an instruction that leaves what `t` holds in `hi` and `lo`, then a move of `v`, one of the two, to
`d`. -/
theorem runBlock_moveHiLo {s t : State} {c : Src2} {p : Pseudo} {i move : Instr} {d : Reg} {v : Word} {o₁ : Result}
    (hexpand : expand s.pc p = some (src2Code c ++ [i, move]))
    (hsame : SameHiLoWrite (afterSrc2 s c) (exec i (afterSrc2 s c)) o₁) (ht : o₁ = .next t)
    (hmove : ∀ m : State, m.hi = t.hi → m.lo = t.lo → exec move m = (m.setReg d v).complete) :
    ∃ code u, expand s.pc p = some code ∧ runBlock s.pc code code.length s = .next u ∧
      OnlyReg (withSrc2 s c) u d v ∧ u.hi = t.hi ∧ u.lo = t.lo ∧
      u.pc = s.pc + BitVec.ofNat 32 (4 * (2 + src2Size c)) ∧ SameMemory s u ∧ SameSystem s u := by
  obtain ⟨k, hexec⟩ := hsame t ht
  have hlength : (src2Code c ++ [i, move]).length = 2 + src2Size c := src2Code_append_length c _
  have hsize := src2Size_le c
  have hrun := (straight_src2Code s c).append (.cons hexec rfl (.cons (hmove _ rfl rfl) rfl .nil))
  refine ⟨_, _, hexpand, runBlock_straight_all hrun (by omega), setReg_onlyReg (fun r => rfl) d v, rfl, rfl, ?_,
    afterSrc2_sameMemory s c, afterSrc2_sameSystem s c⟩
  rw [hrun.pc, hlength]

/-- Settles O58: in front of the move the expansion is the machine instruction on the same two values; `rem` and `remu`
are the case of a register `src2`, which takes no code. -/
theorem pseudoMultiplyDivide : Obligations.PseudoMultiplyDivide := by
  intro d a b c s s₁ t hd ha hb hc hpar hdraws hra
  have hleft : ∀ c, s₁.reg a = (afterSrc2 s c).reg a := fun c => by rw [hra, afterSrc2_reg_other ha]
  have hright : ∀ c, s₁.reg b = src2Value s c → s₁.reg b = (afterSrc2 s c).reg (src2Reg c) := fun c h => by
    rw [h, afterSrc2_src2Reg]
  have hpar' : ∀ c, s₁.par = (afterSrc2 s c).par := fun c => by rw [hpar, afterSrc2_par]
  have hdraws' : ∀ c, s₁.draws = (afterSrc2 s c).draws := fun c => by rw [hdraws, afterSrc2_draws]
  refine ⟨fun hrb ht => ?div, fun hrb ht => ?divu, fun hrb ht => ?mul, fun hrb ht => ?rem, fun hrb ht => ?remu⟩
  case div =>
    exact runBlock_moveHiLo (expand_of_ne_at rfl rfl hd ha hc)
      (execDiv_sameHiLoWrite (hleft c) (hright c hrb) (hpar' c) (hdraws' c)) ht fun _ _ hlo => exec_mflo hlo
  case divu =>
    exact runBlock_moveHiLo (expand_of_ne_at rfl rfl hd ha hc)
      (execDivu_sameHiLoWrite (hleft c) (hright c hrb) (hdraws' c)) ht fun _ _ hlo => exec_mflo hlo
  case mul =>
    have hlow : t.lo = s.reg a * src2Value s c := by
      rw [← hra, ← hrb]
      cases ht
      exact product_low _ _
    rw [← hlow]
    exact runBlock_moveHiLo (expand_of_ne_at rfl rfl hd ha hc)
      (execMult_sameHiLoWrite (hleft c) (hright c hrb)) ht fun _ _ hlo => exec_mflo hlo
  case rem =>
    exact runBlock_moveHiLo (c := .reg b) (expand_of_ne_at (c := .reg b) rfl rfl hd ha (mt Src2.reg.inj hb))
      (execDiv_sameHiLoWrite (hleft _) (hright _ hrb) (hpar' _) (hdraws' _)) ht fun _ hhi _ => exec_mfhi hhi
  case remu =>
    exact runBlock_moveHiLo (c := .reg b) (expand_of_ne_at (c := .reg b) rfl rfl hd ha (mt Src2.reg.inj hb))
      (execDivu_sameHiLoWrite (hleft _) (hright _ hrb) (hdraws' _)) ht fun _ hhi _ => exec_mfhi hhi

/-! ### The two halves of a 64-bit product -/

theorem append_halves (p : BitVec 64) : p.extractLsb' 32 32 ++ p.extractLsb' 0 32 = p :=
  (BitVec.extractLsb'_append_extractLsb'_eq_extractLsb' rfl).trans BitVec.extractLsb'_eq_self

/-- The bit that `sra 31` copies everywhere. -/
theorem sshiftRight_31 (w : Word) : w.sshiftRight 31 = if w.toNat < 2 ^ 31 then 0x00000000#32 else 0xFFFFFFFF#32 := by
  apply BitVec.eq_of_toInt_eq
  rw [BitVec.toInt_sshiftRight, Int.shiftRight_eq_div_pow, BitVec.toInt_eq_toNat_cond]
  have := w.isLt
  split_ifs <;> simp <;> omega

theorem sshiftRight_31_eq_or (w : Word) : w.sshiftRight 31 = 0x00000000#32 ∨ w.sshiftRight 31 = 0xFFFFFFFF#32 := by
  rw [sshiftRight_31]
  split_ifs
  · exact .inl rfl
  · exact .inr rfl

/-- R154: the high half is the sign smear of the low half exactly when the value fits 32 bits. -/
theorem high_eq_smear_iff (p : BitVec 64) :
    p.extractLsb' 32 32 = (p.extractLsb' 0 32).sshiftRight 31 ↔ -2 ^ 31 ≤ p.toInt ∧ p.toInt < 2 ^ 31 := by
  have hp := p.isLt
  rw [sshiftRight_31, BitVec.toInt_eq_toNat_cond, ← BitVec.toNat_inj]
  simp only [BitVec.extractLsb'_toNat, Nat.shiftRight_eq_div_pow]
  split_ifs <;> simp only [BitVec.toNat_ofNat] <;> omega

/-- R155: the high half is zero exactly when the unsigned value fits 32 bits. -/
theorem high_eq_zero_iff (p : BitVec 64) : p.extractLsb' 32 32 = 0#32 ↔ p.toNat < 2 ^ 32 := by
  have hp := p.isLt
  rw [← BitVec.toNat_inj]
  simp only [BitVec.extractLsb'_toNat, Nat.shiftRight_eq_div_pow, BitVec.toNat_ofNat]
  omega

theorem toInt_product (x y : Word) : (BitVec.ofInt 64 (x.toInt * y.toInt)).toInt = x.toInt * y.toInt :=
  BitVec.toInt_ofInt_eq_self (by decide) (Int.le_trans (by decide) (BitVec.le_toInt_mul_toInt (x := x) (y := y)))
    (BitVec.toInt_mul_toInt_le.trans_lt (by decide))

theorem toNat_product (x y : Word) : (BitVec.ofNat 64 (x.toNat * y.toNat)).toNat = x.toNat * y.toNat := by
  rw [BitVec.toNat_ofNat]
  exact Nat.mod_eq_of_lt BitVec.toNat_mul_toNat_lt

/-- The low half of an unsigned 64-bit value is that value modulo 2^32. -/
theorem ofNat_low (n : Nat) : (BitVec.ofNat 64 n).extractLsb' 0 32 = BitVec.ofNat 32 n := by
  apply BitVec.eq_of_toNat_eq
  simp only [BitVec.extractLsb'_toNat, BitVec.toNat_ofNat, Nat.shiftRight_zero]
  omega

/-! ### The overflow trap of `mulo` and `mulou` -/

theorem branchTarget_two (pc : Word) : branchTarget pc 2#16 = pc + BitVec.ofNat 32 (4 * 3) := by
  rw [branchTarget, BitVec.add_assoc]; rfl

theorem exec_beq_skip {m : State} {x y : Reg} (h : m.reg x = m.reg y) :
    exec (.beq x y 2#16) m = .next (m.setPc (m.pc + BitVec.ofNat 32 (4 * 3))) := by
  show m.branchTo (m.reg x == m.reg y) _ = _
  rw [h, beq_self_eq_true, branchTarget_two]; rfl

theorem exec_beq_pass {m : State} {x y : Reg} (h : m.reg x ≠ m.reg y) :
    exec (.beq x y 2#16) m = .next m.advance := by
  show m.branchTo (m.reg x == m.reg y) _ = _
  rw [beq_eq_false_iff_ne.2 h]; rfl

/-- The state in which the `add` of the trap is about to execute. -/
def beforeTrap (m : State) : State := (m.advance.setReg Reg.at 0x7FFF0000#32).advance

/-- R154: twice 0x7FFF0000 does not fit. -/
theorem exec_trap (m : State) :
    exec (.add Reg.zero Reg.at Reg.at) (beforeTrap m) = .next ((beforeTrap m).raise .ov) := by
  have hat : (beforeTrap m).sreg Reg.at = 0x7FFF0000 := by
    show ((m.advance.setReg Reg.at _).reg Reg.at).toInt = _
    rw [State.setReg_reg_same _ _ (by decide)]
    rfl
  show State.writeSigned _ _ (State.sreg _ Reg.at + State.sreg _ Reg.at) = _
  rw [hat]
  rfl

/-- What stands behind the multiplication in `mulo` and `mulou`: the test, the trap, and the move of the product. -/
def overflowTail (x y d : Reg) : List Instr := [.beq x y 2#16] ++ overflowTrap ++ [.mflo d]

theorem beforeTrap_pc {s m : State} {before : List Instr} (h : Straight before s m) :
    (beforeTrap m).pc = s.pc + BitVec.ofNat 32 (4 * (before.length + 2)) := by
  show m.pc + 4#32 + 4#32 = _
  rw [h.pc, ← add_instrs, BitVec.add_assoc _ 4#32]
  rfl

section
variable {s m : State} {before : List Instr} (h : Straight before s m) (hlen : before.length < 2 ^ 29) {x y : Reg}
  (d : Reg)
include h hlen

theorem runBlock_overflowTail_skip (heq : m.reg x = m.reg y) :
    runBlock s.pc (before ++ overflowTail x y d) (before.length + 3) s =
      .next ((m.setPc (m.pc + BitVec.ofNat 32 (4 * 3))).setReg d m.lo).advance := by
  have hmove : (m.setPc (m.pc + BitVec.ofNat 32 (4 * 3))).pc = s.pc + BitVec.ofNat 32 (4 * (before.length + 3)) := by
    rw [State.setPc_pc, h.pc, add_instrs]
  have hend : ((m.setPc (m.pc + BitVec.ofNat 32 (4 * 3))).setReg d m.lo).advance.pc =
      s.pc + BitVec.ofNat 32 (4 * (before.length + 4)) := by
    rw [State.advance_pc, State.setReg_pc, hmove]
    exact add_instrs _ _ 1
  rw [runBlock_straight h (by omega), runBlock_next h.pc (by omega) (by simp [overflowTail]) (exec_beq_skip heq),
    runBlock_next hmove (by omega) (i := .mflo d) (by simp [overflowTail, overflowTrap]) rfl]
  exact runBlock_done hend (by omega) (by simp [overflowTail, overflowTrap])

theorem runBlock_overflowTail_trap (hne : m.reg x ≠ m.reg y) :
    runBlock s.pc (before ++ overflowTail x y d) (before.length + 3) s = .next ((beforeTrap m).raise .ov) := by
  have hlui : m.advance.pc = s.pc + BitVec.ofNat 32 (4 * (before.length + 1)) := by
    rw [State.advance_pc, h.pc]
    exact add_instrs _ _ 1
  rw [runBlock_straight h (by omega), runBlock_next h.pc (by omega) (by simp [overflowTail]) (exec_beq_pass hne),
    runBlock_next hlui (by omega) (i := .lui Reg.at 0x7FFF#16) (by simp [overflowTail, overflowTrap])
      (t := beforeTrap m) rfl,
    runBlock_next (beforeTrap_pc h) (by omega) (by simp [overflowTail, overflowTrap]) (exec_trap m),
    runBlock_zero]

end

/-- Both outcomes of the test, when the multiplication has left the product in `hi` and `lo`. -/
theorem runBlock_overflowTail {s m : State} {c : Src2} {code : List Instr} {x y d : Reg} (hd₀ : d ≠ 0#5) (hd₁ : d ≠ 1#5)
    (h : Straight (src2Code c ++ code) s m) (hlen : code.length < 2 ^ 28)
    (hregs : ∀ r : Reg, r ≠ d → r ≠ 1#5 → m.reg r = s.reg r) (hmem : SameMemory s m) (hsys : SameSystem s m) :
    ∃ t, runBlock s.pc (src2Code c ++ code ++ overflowTail x y d)
        ((src2Code c ++ code ++ overflowTail x y d).length - 1) s = .next t ∧
      (∀ r : Reg, r ≠ d → r ≠ 1#5 → t.reg r = s.reg r) ∧ SameMemory s t ∧ t.hi = m.hi ∧ t.lo = m.lo ∧
      (m.reg x = m.reg y → t.reg d = m.lo ∧
        t.pc = s.pc + BitVec.ofNat 32 (4 * (code.length + 4 + src2Size c)) ∧ SameSystem s t) ∧
      (m.reg x ≠ m.reg y → t.reg d = m.reg d ∧
        ∃ u, u.pc = s.pc + BitVec.ofNat 32 (4 * (code.length + 2 + src2Size c)) ∧ SameSystem s u ∧
          EntersException u t 12#4 none) := by
  have hlength := src2Code_append_length c code
  have hsize := src2Size_le c
  have hbound : (src2Code c ++ code).length < 2 ^ 29 := by omega
  have hfuel : (src2Code c ++ code ++ overflowTail x y d).length - 1 = (src2Code c ++ code).length + 3 := by
    rw [List.length_append]
    rfl
  rw [hfuel, Nat.add_right_comm _ 4, Nat.add_right_comm _ 2, ← hlength]
  by_cases heq : m.reg x = m.reg y
  · refine ⟨_, runBlock_overflowTail_skip h hbound d heq, fun r hrd hr₁ => ?_, hmem, rfl, rfl, fun _ => ⟨?_, ?_, hsys⟩,
      fun hne => absurd heq hne⟩
    · rw [State.advance_reg, State.setReg_reg_other _ _ hrd]
      exact hregs r hrd hr₁
    · exact State.setReg_reg_same _ _ hd₀
    · show m.pc + BitVec.ofNat 32 (4 * 3) + BitVec.ofNat 32 (4 * 1) = _
      rw [h.pc, add_instrs, add_instrs]
  · have hkeep : ∀ r : Reg, r ≠ 1#5 → (beforeTrap m).reg r = m.reg r := fun r hr =>
      State.setReg_reg_other (r := Reg.at) _ _ hr
    exact ⟨_, runBlock_overflowTail_trap h hbound d heq, fun r hrd hr₁ => (hkeep r hr₁).trans (hregs r hrd hr₁), hmem,
      rfl, rfl, fun h' => absurd h' heq, fun _ => ⟨hkeep d hd₁, _, beforeTrap_pc h, hsys, State.raise_enters _ .ov⟩⟩

/-! ### `mulo` and `mulou` (`40_arithmetic.md` R154, R155) -/

section
variable (s : State) {a : Reg} (c : Src2) (ha : a ≠ 1#5)
include ha

theorem exec_mult_afterSrc2 : exec (.mult a (src2Reg c)) (afterSrc2 s c) =
    (afterSrc2 s c).product (BitVec.ofInt 64 ((s.reg a).toInt * (src2Value s c).toInt)) := by
  rw [← afterSrc2_src2Reg, ← afterSrc2_reg_other ha (c := c)]
  rfl

theorem exec_multu_afterSrc2 : exec (.multu a (src2Reg c)) (afterSrc2 s c) =
    (afterSrc2 s c).product (BitVec.ofNat 64 ((s.reg a).toNat * (src2Value s c).toNat)) := by
  rw [← afterSrc2_src2Reg, ← afterSrc2_reg_other ha (c := c)]
  rfl

end

/-- The signed product is in `hi` and `lo`, its high half in `$at` and the sign smear of its low half in `d`. -/
theorem straight_mulo (s : State) {d a : Reg} (c : Src2) (hd₀ : d ≠ 0#5) (hd₁ : d ≠ 1#5) (ha : a ≠ 1#5) {p : BitVec 64}
    (hp : p = BitVec.ofInt 64 ((s.reg a).toInt * (src2Value s c).toInt)) :
    ∃ m, Straight (src2Code c ++ [.mult a (src2Reg c), .mfhi Reg.at, .mflo d, .sra d d 31#5]) s m ∧
      m.hi = p.extractLsb' 32 32 ∧ m.lo = p.extractLsb' 0 32 ∧ m.reg Reg.at = m.hi ∧ m.reg d = m.lo.sshiftRight 31 ∧
      (∀ r : Reg, r ≠ d → r ≠ 1#5 → m.reg r = s.reg r) ∧ SameMemory s m ∧ SameSystem s m := by
  have hmult := exec_mult_afterSrc2 s c ha
  rw [← hp] at hmult
  refine ⟨_, (straight_src2Code s c).append (.cons hmult rfl (.cons rfl rfl (.cons rfl rfl (.cons rfl rfl .nil)))),
    rfl, rfl, ?_, ?_, fun r hrd hr₁ => ?_, afterSrc2_sameMemory s c, afterSrc2_sameSystem s c⟩
  · have hat : Reg.at ≠ d := hd₁.symm
    rw [State.advance_reg, State.setReg_reg_other _ _ hat, State.advance_reg, State.setReg_reg_other _ _ hat,
      State.advance_reg, State.setReg_reg_same _ _ (by decide)]
    rfl
  · rw [State.advance_reg, State.setReg_reg_same _ _ hd₀, State.advance_reg, State.setReg_reg_same _ _ hd₀]
    rfl
  · rw [State.advance_reg, State.setReg_reg_other _ _ hrd, State.advance_reg, State.setReg_reg_other _ _ hrd,
      State.advance_reg, State.setReg_reg_other (r := Reg.at) _ _ hr₁]
    exact afterSrc2_reg_other hr₁

/-- The unsigned product is in `hi` and `lo`, and its high half in `$at`. -/
theorem straight_mulou (s : State) {a : Reg} (c : Src2) (ha : a ≠ 1#5) {p : BitVec 64}
    (hp : p = BitVec.ofNat 64 ((s.reg a).toNat * (src2Value s c).toNat)) :
    ∃ m, Straight (src2Code c ++ [.multu a (src2Reg c), .mfhi Reg.at]) s m ∧
      m.hi = p.extractLsb' 32 32 ∧ m.lo = p.extractLsb' 0 32 ∧ m.reg Reg.at = m.hi ∧
      (∀ r : Reg, r ≠ 1#5 → m.reg r = s.reg r) ∧ SameMemory s m ∧ SameSystem s m := by
  have hmultu := exec_multu_afterSrc2 s c ha
  rw [← hp] at hmultu
  refine ⟨_, (straight_src2Code s c).append (.cons hmultu rfl (.cons rfl rfl .nil)), rfl, rfl, ?_, fun r hr₁ => ?_,
    afterSrc2_sameMemory s c, afterSrc2_sameSystem s c⟩
  · exact State.setReg_reg_same _ _ (by decide)
  · rw [State.advance_reg, State.setReg_reg_other (r := Reg.at) _ _ hr₁]
    exact afterSrc2_reg_other hr₁

/-- Settles O59: the product is in `hi` and `lo` whatever the test finds; the test finds the registers it compares equal
exactly when the product fits, and then the trap is skipped. -/
theorem pseudoMultiplyWithOverflow : Obligations.PseudoMultiplyWithOverflow := by
  intro d a c s hd₀ hd₁ ha hc
  refine ⟨?mulo, ?mulou⟩
  case mulo =>
    obtain ⟨m, hrun, hhi, hlo, hat, hsmear, hregs, hmem, hsys⟩ := straight_mulo s c hd₀ hd₁ ha rfl
    obtain ⟨t, hblock, hregs', hmem', hhi', hlo', hskip, htrap⟩ :=
      runBlock_overflowTail (x := Reg.at) (y := d) hd₀ hd₁ hrun (by simp) hregs hmem hsys
    refine ⟨_, t, (expand_of_ne_at rfl (bne_iff_ne.2 hd₀) hd₁ ha hc).trans ?_, hblock, hregs', hmem', fun p hp => ?_⟩
    · simp [pseudoCode, overflowTail]
    rw [← hp] at hhi hlo
    have hval : (BitVec.ofInt 64 p).toInt = p := hp ▸ toInt_product _ _
    have hfits : m.reg Reg.at = m.reg d ↔ -2 ^ 31 ≤ p ∧ p < 2 ^ 31 := by
      rw [hat, hsmear, hhi, hlo, high_eq_smear_iff, hval]
    refine ⟨by rw [hhi', hlo', hhi, hlo, append_halves, hval], fun hmin hmax => ?_, fun hout => ?_⟩
    · obtain ⟨hd, hpc, hsys'⟩ := hskip (hfits.2 ⟨hmin, hmax⟩)
      exact ⟨by rw [hd, hlo, ofInt_low], hpc, hsys'⟩
    · obtain ⟨hd, htrap'⟩ := htrap fun heq => by have := hfits.1 heq; omega
      exact ⟨by rw [hd, hsmear]; exact sshiftRight_31_eq_or _, htrap'⟩
  case mulou =>
    obtain ⟨m, hrun, hhi, hlo, hat, hregs, hmem, hsys⟩ := straight_mulou s c ha rfl
    obtain ⟨t, hblock, hregs', hmem', hhi', hlo', hskip, htrap⟩ :=
      runBlock_overflowTail (x := Reg.at) (y := Reg.zero) hd₀ hd₁ hrun (by simp) (fun r _ => hregs r) hmem hsys
    refine ⟨_, t, (expand_of_ne_at rfl (bne_iff_ne.2 hd₀) hd₁ ha hc).trans ?_, hblock, hregs', hmem', fun p hp => ?_⟩
    · simp [pseudoCode, overflowTail]
    rw [← hp] at hhi hlo
    have hval : (BitVec.ofNat 64 p).toNat = p := hp ▸ toNat_product _ _
    have hfits : m.reg Reg.at = m.reg Reg.zero ↔ p < 2 ^ 32 := by
      rw [hat, Reg.zero, State.reg_zero, hhi, high_eq_zero_iff, hval]
    refine ⟨by rw [hhi', hlo', hhi, hlo, append_halves, hval], fun hmax => ?_, fun hout => ?_⟩
    · obtain ⟨hd, hpc, hsys'⟩ := hskip (hfits.2 hmax)
      exact ⟨by rw [hd, hlo, ofNat_low], hpc, hsys'⟩
    · obtain ⟨hd, htrap'⟩ := htrap (mt hfits.1 (Nat.not_lt.2 hout))
      exact ⟨hd.trans (hregs d hd₁), htrap'⟩

end Sys2Proof.Machine
end

section
/-! PROOFS for `40_arithmetic.md`, with the one-operand pseudo-instructions of `42_logical.md` R207 and
`48_data_movement.md` R344. First what the shapes of an arithmetic instruction leave behind, and when a sum or a
difference fits; then the instructions, and the expansions. -/

namespace Sys2Proof.Machine

/-! ### What an arithmetic instruction leaves behind -/

/-- A register write that completes. -/
theorem State.setReg_regResult (s : State) (rd : Reg) (v : Word) : RegResult s (s.setReg rd v).advance rd v :=
  ⟨setReg_onlyReg (fun _ => rfl) rd v, rfl, ⟨rfl, rfl⟩, fun _ => rfl, rfl, rfl, rfl, rfl, rfl, rfl⟩

/-- A write of `hi` and `lo` that completes, whether or not it has used free words. -/
theorem State.setHiLo_hiLoResult (s : State) (h l : Word) (k : Nat) :
    HiLoResult s ((s.setHiLo h l).drew k).advance h l :=
  ⟨rfl, rfl, rfl, fun _ => rfl, fun _ => rfl, rfl, rfl, rfl, rfl, rfl, rfl⟩

section
variable (s : State) (rd : Reg) {r : Int}

theorem State.writeSigned_of_fits (h : -2 ^ 31 ≤ r ∧ r ≤ 2 ^ 31 - 1) :
    ∃ t, s.writeSigned rd r = .next t ∧ RegResult s t rd (BitVec.ofInt 32 r) := by
  rcases s.writeSigned_cases rd r with ⟨-, -, hw⟩ | ⟨hout, -⟩
  · exact ⟨_, hw, s.setReg_regResult rd _⟩
  · exact absurd h hout

theorem State.writeSigned_of_overflow (h : ¬(-2 ^ 31 ≤ r ∧ r ≤ 2 ^ 31 - 1)) :
    ∃ t, s.writeSigned rd r = .next t ∧ EntersException s t 12#4 none := by
  rcases s.writeSigned_cases rd r with ⟨hmin, hmax, -⟩ | ⟨-, hw⟩
  · exact absurd ⟨hmin, hmax⟩ h
  · exact ⟨_, hw, s.raise_enters .ov⟩

/-- The outcomes of `add`, `addi` and `sub`, when `v` is the 32-bit result and `p ∧ q` the condition on the sign bits
under which the exact result `x` does not fit. -/
theorem State.writeSigned_outcomes {x : Int} {v : Word} {p q : Prop} (hv : BitVec.ofInt 32 x = v)
    (hov : p ∧ q ↔ ¬(-2 ^ 31 ≤ x ∧ x ≤ 2 ^ 31 - 1)) :
    (∀ r : Int, r = x → -2 ^ 31 ≤ r → r ≤ 2 ^ 31 - 1 →
      ∃ t, s.writeSigned rd x = .next t ∧ RegResult s t rd (BitVec.ofInt 32 r)) ∧
    (p → q → ∃ t, s.writeSigned rd x = .next t ∧ EntersException s t 12#4 none) ∧
    (¬(p ∧ q) → ∃ t, s.writeSigned rd x = .next t ∧ RegResult s t rd v) := by
  refine ⟨?_, fun hp hq => s.writeSigned_of_overflow rd (hov.1 ⟨hp, hq⟩), fun hpq => ?_⟩
  · rintro r rfl hmin hmax
    exact s.writeSigned_of_fits rd ⟨hmin, hmax⟩
  · rw [← hv]
    exact s.writeSigned_of_fits rd (not_not.1 (mt hov.2 hpq))

end

/-! ### Signed overflow as a condition on sign bits (R140, R144, R371) -/

theorem add_overflow_iff (x y : Word) :
    x.msb = y.msb ∧ (x + y).msb ≠ x.msb ↔ ¬(-2 ^ 31 ≤ x.toInt + y.toInt ∧ x.toInt + y.toInt ≤ 2 ^ 31 - 1) := by
  have h : x.saddOverflow y = true ↔ x.msb = y.msb ∧ (x + y).msb ≠ x.msb := by
    simp [BitVec.saddOverflow_eq]
  rw [← h, BitVec.saddOverflow, Bool.or_eq_true, decide_eq_true_iff, decide_eq_true_iff]
  omega

theorem sub_overflow_iff (x y : Word) :
    x.msb ≠ y.msb ∧ (x - y).msb = y.msb ↔ ¬(-2 ^ 31 ≤ x.toInt - y.toInt ∧ x.toInt - y.toInt ≤ 2 ^ 31 - 1) := by
  have h : x.ssubOverflow y = true ↔ x.msb ≠ y.msb ∧ (x - y).msb = y.msb := by
    rw [BitVec.ssubOverflow_eq]
    cases x.msb <;> cases y.msb <;> simp
  rw [← h, BitVec.ssubOverflow, Bool.or_eq_true, decide_eq_true_iff, decide_eq_true_iff]
  omega

theorem ofInt_toInt_add (x y : Word) : BitVec.ofInt 32 (x.toInt + y.toInt) = x + y := by
  rw [BitVec.ofInt_add, BitVec.ofInt_toInt, BitVec.ofInt_toInt]

theorem ofInt_toInt_sub (x y : Word) : BitVec.ofInt 32 (x.toInt - y.toInt) = x - y := by
  rw [Int.sub_eq_add_neg, BitVec.ofInt_add, BitVec.ofInt_neg, BitVec.ofInt_toInt, BitVec.ofInt_toInt,
    BitVec.sub_eq_add_neg]

theorem sextHalf_msb (imm : Half) : (sextHalf imm).msb = imm.msb := by
  simp [sextHalf, BitVec.msb_signExtend]

/-! ### `add`, `addi`, `sub` (R140, R142, R144) -/

/-- Settles O13: both write their exact sum as a signed result, and the sign bit of a sign-extended immediate is its
own. -/
theorem signedAddition : Obligations.SignedAddition := by
  intro rd rs rt imm s
  obtain ⟨haddFits, haddOv, haddWrap⟩ :=
    s.writeSigned_outcomes rd (ofInt_toInt_add _ _) (add_overflow_iff (s.reg rs) (s.reg rt))
  have himm := add_overflow_iff (s.reg rs) (sextHalf imm)
  rw [sextHalf_msb] at himm
  obtain ⟨haddiFits, haddiOv, haddiWrap⟩ := s.writeSigned_outcomes rt (ofInt_toInt_add _ _) himm
  exact ⟨decode_of_encode_eq (i := .add rd rs rt) rfl rfl, decode_of_encode_eq (i := .addi rt rs imm) rfl rfl,
    haddFits, haddOv, haddWrap, haddiFits, haddiOv, haddiWrap⟩

/-- Settles O14: `sub` writes the exact difference as a signed result. -/
theorem signedSubtraction : Obligations.SignedSubtraction := fun rd rs rt s =>
  ⟨decode_of_encode_eq (i := .sub rd rs rt) rfl rfl,
    s.writeSigned_outcomes rd (ofInt_toInt_sub _ _) (sub_overflow_iff (s.reg rs) (s.reg rt))⟩

/-! ### `addu`, `addiu`, `subu` (R141, R143, R145) -/

theorem ofInt_toNat (x : Word) : BitVec.ofInt 32 x.toNat = x := by
  rw [BitVec.ofInt_natCast, BitVec.ofNat_toNat, BitVec.setWidth_eq]

theorem add_sextHalf_eq_ofInt (x : Word) (imm : Half) : x + sextHalf imm = BitVec.ofInt 32 (x.toNat + imm.toInt) := by
  rw [BitVec.ofInt_add, ofInt_toNat]; rfl

theorem sub_eq_ofInt (x y : Word) : x - y = BitVec.ofInt 32 (x.toNat - y.toNat) := by
  rw [Int.sub_eq_add_neg, BitVec.ofInt_add, BitVec.ofInt_neg, ofInt_toNat, ofInt_toNat, BitVec.sub_eq_add_neg]

/-- Settles O15: each writes one register, and the addition and subtraction of words are those of their values
modulo 2^32. -/
theorem additionWithoutOverflow : Obligations.AdditionWithoutOverflow := by
  intro rd rs rt imm s
  rw [← BitVec.add_def, ← add_sextHalf_eq_ofInt, ← sub_eq_ofInt]
  exact ⟨decode_of_encode_eq (i := .addu rd rs rt) rfl rfl, decode_of_encode_eq (i := .addiu rt rs imm) rfl rfl,
    decode_of_encode_eq (i := .subu rd rs rt) rfl rfl, ⟨_, rfl, s.setReg_regResult rd _⟩,
    ⟨_, rfl, s.setReg_regResult rt _⟩, _, rfl, s.setReg_regResult rd _⟩

/-! ### `mult`, `multu` (R148, R149) -/

/-- The two halves of the product, put together, are the product. -/
theorem State.product_leaves (s : State) (p : BitVec 64) :
    ∃ t h l, s.product p = .next t ∧ HiLoResult s t h l ∧ h ++ l = p :=
  ⟨_, _, _, rfl, s.setHiLo_hiLoResult _ _ 0, append_halves p⟩

/-- Settles O16: 64 bits hold the product of two words, signed and unsigned. -/
theorem multiplication : Obligations.Multiplication := by
  intro rs rt s
  refine ⟨decode_of_encode_eq (i := .mult rs rt) rfl rfl, decode_of_encode_eq (i := .multu rs rt) rfl rfl, ?_, ?_⟩
  · obtain ⟨t, h, l, hexec, hres, hp⟩ := s.product_leaves (BitVec.ofInt 64 ((s.reg rs).toInt * (s.reg rt).toInt))
    exact ⟨t, h, l, hexec, hres, by rw [hp, toInt_product]⟩
  · obtain ⟨t, h, l, hexec, hres, hp⟩ := s.product_leaves (BitVec.ofNat 64 ((s.reg rs).toNat * (s.reg rt).toNat))
    exact ⟨t, h, l, hexec, hres, by rw [hp, toNat_product]⟩

/-! ### `divu` (R147) -/

section
variable {s : State} {rs rt : Reg}

theorem execDivu_of_zero (h : (s.reg rt).toNat = 0) : execDivu rs rt s = s.drawHiLo := if_pos h

/-- A non-zero divisor: the unsigned quotient and remainder of words. -/
theorem execDivu_of_ne_zero (h : (s.reg rt).toNat ≠ 0) :
    execDivu rs rt s = (s.setHiLo (s.reg rs % s.reg rt) (s.reg rs / s.reg rt)).complete := by
  rw [BitVec.umod_def, BitVec.udiv_def, Nat.mod_def]
  exact if_neg h

end

/-- Settles O17: a zero divisor draws both values; for any other the remainder is what the quotient leaves. -/
theorem unsignedDivision : Obligations.UnsignedDivision := by
  intro rs rt s
  refine ⟨decode_of_encode_eq (i := .divu rs rt) rfl rfl, ?_⟩
  by_cases hzero : (s.reg rt).toNat = 0
  · exact ⟨_, _, _, execDivu_of_zero hzero, s.setHiLo_hiLoResult _ _ 2, fun hne => absurd hzero hne⟩
  · refine ⟨_, _, _, execDivu_of_ne_zero hzero, s.setHiLo_hiLoResult _ _ 0, fun _ => ?_⟩
    rw [BitVec.toNat_umod, BitVec.toNat_udiv]
    exact ⟨(Nat.div_add_mod _ _).symm, Nat.mod_lt _ (Nat.pos_of_ne_zero hzero)⟩

/-! ### `div` (R146) -/

/-- The one pair of operands whose quotient does not fit. -/
abbrev DivWraps (x y : Word) : Prop := x.toInt = -2 ^ 31 ∧ y.toInt = -1

theorem toInt_sdiv_of_not_divWraps {x y : Word} (h : ¬DivWraps x y) : (x.sdiv y).toInt = x.toInt.tdiv y.toInt := by
  refine BitVec.toInt_sdiv_of_ne_or_ne x y (not_and_or.1 ?_)
  rintro ⟨rfl, rfl⟩
  exact h ⟨rfl, rfl⟩

/-- Truncating division, in the terms of R146. -/
theorem tdiv_tmod_spec (a : Int) {b : Int} (hb : b ≠ 0) :
    a = a.tdiv b * b + a.tmod b ∧ (a.tmod b).natAbs < b.natAbs ∧ (a.tmod b = 0 ∨ (a.tmod b < 0 ↔ a < 0)) := by
  refine ⟨(Int.tdiv_mul_add_tmod a b).symm, ?_, ?_⟩
  · rw [Int.natAbs_tmod]
    exact Nat.mod_lt _ (Int.natAbs_pos.2 hb)
  · by_cases hdvd : b ∣ a
    · exact .inl (Int.tmod_eq_zero_of_dvd hdvd)
    · have hsign := Int.sign_tmod a b
      rw [if_neg hdvd] at hsign
      exact .inr (by rw [← Int.sign_eq_neg_one_iff_neg, hsign, Int.sign_eq_neg_one_iff_neg])

section
variable {s : State} {rs rt : Reg}

theorem execDiv_of_zero (h : (s.reg rt).toInt = 0) : execDiv rs rt s = s.drawHiLo := if_pos h

theorem execDiv_of_divWraps (h : DivWraps (s.reg rs) (s.reg rt)) :
    execDiv rs rt s = (s.setHiLo 0x00000000#32 0x80000000#32).complete := by
  obtain ⟨ha, hb⟩ := h
  simp [execDiv, State.sreg, ha, hb]

/-- Non-negative operands, or truncation: the truncating quotient and remainder, which for non-negative operands are
the exact ones. -/
theorem execDiv_of_truncates (hzero : (s.reg rt).toInt ≠ 0) (hwrap : ¬DivWraps (s.reg rs) (s.reg rt))
    (h : (0 ≤ (s.reg rs).toInt ∧ 0 < (s.reg rt).toInt) ∨ s.par.divSigned = .truncate) :
    execDiv rs rt s = (s.setHiLo ((s.reg rs).srem (s.reg rt)) ((s.reg rs).sdiv (s.reg rt))).complete := by
  have hquot : BitVec.ofInt 32 ((s.reg rs).toInt.tdiv (s.reg rt).toInt) = (s.reg rs).sdiv (s.reg rt) := by
    rw [← toInt_sdiv_of_not_divWraps hwrap, BitVec.ofInt_toInt]
  have hrem : BitVec.ofInt 32 ((s.reg rs).toInt - (s.reg rt).toInt * (s.reg rs).toInt.tdiv (s.reg rt).toInt) =
      (s.reg rs).srem (s.reg rt) := by
    rw [← Int.tmod_def, ← BitVec.toInt_srem, BitVec.ofInt_toInt]
  unfold execDiv State.sreg
  dsimp only
  rw [if_neg hzero, ← hquot, ← hrem]
  split_ifs with hnonneg
  · rw [Int.tdiv_eq_ediv_of_nonneg hnonneg.1]; rfl
  · rw [h.resolve_left hnonneg, Int.mul_comm]; rfl

theorem execDiv_of_draws (hneg : ¬(0 ≤ (s.reg rs).toInt ∧ 0 < (s.reg rt).toInt))
    (hwrap : ¬DivWraps (s.reg rs) (s.reg rt)) (h : s.par.divSigned ≠ .truncate) :
    execDiv rs rt s = s.drawHiLo := by
  have hdraw : s.par.divSigned = .draw := by
    cases hd : s.par.divSigned with
    | truncate => exact absurd hd h
    | draw => rfl
  unfold execDiv State.sreg
  dsimp only
  rw [hdraw, if_neg hneg, if_neg hwrap, ite_self]

end

/-- Settles O18, along the cases of R146. -/
theorem signedDivision : Obligations.SignedDivision := by
  intro rs rt s
  refine ⟨decode_of_encode_eq (i := .div rs rt) rfl rfl, ?_⟩
  by_cases hzero : (s.reg rt).toInt = 0
  · exact ⟨_, _, _, execDiv_of_zero hzero, s.setHiLo_hiLoResult _ _ 2, by omega, by omega,
      fun _ hne => absurd hzero hne⟩
  by_cases hwrap : DivWraps (s.reg rs) (s.reg rt)
  · have ⟨ha, hb⟩ := hwrap
    exact ⟨_, _, _, execDiv_of_divWraps hwrap, s.setHiLo_hiLoResult _ _ 0, by omega, fun _ _ => ⟨rfl, rfl⟩,
      fun _ _ hnot => absurd hwrap hnot⟩
  by_cases h : (0 ≤ (s.reg rs).toInt ∧ 0 < (s.reg rt).toInt) ∨ s.par.divSigned = .truncate
  · refine ⟨_, (s.reg rs).srem (s.reg rt), (s.reg rs).sdiv (s.reg rt), execDiv_of_truncates hzero hwrap h,
      s.setHiLo_hiLoResult _ _ 0, fun ha hb => ?_, fun ha hb => absurd ⟨ha, hb⟩ hwrap, fun _ _ _ => ?_⟩ <;>
    rw [BitVec.toInt_srem, toInt_sdiv_of_not_divWraps hwrap]
    · exact ⟨(Int.mul_tdiv_add_tmod _ _).symm, Int.tmod_nonneg _ ha, Int.tmod_lt_of_pos _ hb⟩
    · exact tdiv_tmod_spec _ hzero
  · obtain ⟨hneg, hdraw⟩ := not_or.1 h
    exact ⟨_, _, _, execDiv_of_draws hneg hwrap hdraw, s.setHiLo_hiLoResult _ _ 2, fun ha hb => absurd ⟨ha, hb⟩ hneg,
      fun ha hb => absurd ⟨ha, hb⟩ hwrap, fun htrunc => absurd htrunc hdraw⟩

/-! ### Expansions of one instruction: `neg`, `negu`, `not`, `move` (R156, R157, R207, R344) -/

/-- The assembler accepts a pseudo-instruction with two operands neither of which is `$at` (R127). -/
theorem expand_of_two_ne_at {base : Word} {p : Pseudo} {d a : Reg}
    (hp : pseudoLegal p = ([d, a].all (· != Reg.at) && true)) (hd : d ≠ 1#5) (ha : a ≠ 1#5) :
    expand base p = pseudoCode base p := by
  refine if_pos (hp.trans ?_)
  simp [Reg.at, hd, ha]

theorem runBlock_singleton {s t : State} {i : Instr} (h : exec i s = .next t) :
    runBlock s.pc [i] [i].length s = .next t := by
  rw [List.length_singleton, runBlock_next (k := 0) (by simp) (by decide) rfl h, runBlock_zero]

/-- An expansion of one instruction that writes `v` to `d` and completes. -/
theorem runBlock_setReg {s : State} {p : Pseudo} {i : Instr} {d : Reg} {v : Word}
    (hexpand : expand s.pc p = some [i]) (hexec : exec i s = (s.setReg d v).complete) :
    ∃ code t, expand s.pc p = some code ∧ runBlock s.pc code code.length s = .next t ∧ RegResult s t d v :=
  ⟨_, _, hexpand, runBlock_singleton hexec, s.setReg_regResult d v⟩

theorem toInt_eq_min_iff {x : Word} : x.toInt = -2 ^ 31 ↔ x = 0x80000000#32 :=
  ⟨fun h => BitVec.eq_of_toInt_eq (y := 0x80000000#32) h, fun h => h ▸ rfl⟩

/-- Negation fits but for the least value. -/
theorem neg_fits_iff {x : Word} : -2 ^ 31 ≤ -x.toInt ∧ -x.toInt ≤ 2 ^ 31 - 1 ↔ x ≠ 0x80000000#32 := by
  have hmin := x.le_toInt
  have hmax := x.toInt_lt
  rw [ne_eq, ← toInt_eq_min_iff]
  omega

section
variable (d a : Reg) (s : State)

theorem exec_sub_zero : exec (.sub d Reg.zero a) s = s.writeSigned d (-(s.reg a).toInt) := by
  show s.writeSigned d ((s.reg 0#5).toInt - (s.reg a).toInt) = _
  rw [State.reg_zero, BitVec.toInt_zero, Int.zero_sub]

theorem exec_subu_zero : exec (.subu d Reg.zero a) s = (s.setReg d (0#32 - s.reg a)).complete := by
  rw [← s.reg_zero]; rfl

theorem exec_addu_zero : exec (.addu d Reg.zero a) s = (s.setReg d (s.reg a)).complete := by
  show (s.setReg d (s.reg 0#5 + s.reg a)).complete = _
  rw [State.reg_zero, BitVec.zero_add]

theorem exec_nor_zero : exec (.nor d a Reg.zero) s = (s.setReg d (~~~(s.reg a))).complete := by
  show (s.setReg d (~~~(s.reg a ||| s.reg 0#5))).complete = _
  rw [State.reg_zero, BitVec.or_zero]

end

/-- The `sub` of `neg` and `abs`, from any state. -/
theorem exec_sub_zero_outcomes (d a : Reg) (s : State) :
    ∃ t, exec (.sub d Reg.zero a) s = .next t ∧
      (s.reg a ≠ 0x80000000#32 → RegResult s t d (BitVec.ofInt 32 (-(s.reg a).toInt))) ∧
      (s.reg a = 0x80000000#32 → EntersException s t 12#4 none) := by
  rw [exec_sub_zero]
  by_cases hmin : s.reg a = 0x80000000#32
  · obtain ⟨t, hexec, hov⟩ := s.writeSigned_of_overflow d (mt neg_fits_iff.1 (not_not.2 hmin))
    exact ⟨t, hexec, fun hne => absurd hmin hne, fun _ => hov⟩
  · obtain ⟨t, hexec, hres⟩ := s.writeSigned_of_fits d (neg_fits_iff.2 hmin)
    exact ⟨t, hexec, fun _ => hres, fun heq => absurd heq hmin⟩

/-! ### `abs` (R150) -/

theorem branchTarget_one (pc : Word) : branchTarget pc 1#16 = pc + BitVec.ofNat 32 (4 * 2) := by
  rw [branchTarget, BitVec.add_assoc]; rfl

section
variable {m : State} {a : Reg}

theorem exec_bgez_skip (h : 0 ≤ (m.reg a).toInt) :
    exec (.bgez a 1#16) m = .next (m.setPc (m.pc + BitVec.ofNat 32 (4 * 2))) := by
  show m.branchTo (decide (0 ≤ (m.reg a).toInt)) _ = _
  rw [decide_eq_true h, branchTarget_one]; rfl

theorem exec_bgez_pass (h : (m.reg a).toInt < 0) : exec (.bgez a 1#16) m = .next m.advance := by
  show m.branchTo (decide (0 ≤ (m.reg a).toInt)) _ = _
  rw [decide_eq_false (Int.not_le.2 h)]; rfl

end

/-- Two writes to one register: the second stands. -/
theorem OnlyReg.trans {s m t : State} {d : Reg} {v w : Word} (h : OnlyReg s m d v) (h' : OnlyReg m t d w) :
    OnlyReg s t d w := by
  obtain ⟨-, -, hother⟩ := h
  obtain ⟨hd, hzero, hother'⟩ := h'
  exact ⟨hd, hzero, fun r hr => (hother' r hr).trans (hother r hr)⟩

/-- Copying a register leaves it as it is, whatever the destination. -/
theorem State.setReg_copy_reg (s : State) (d a : Reg) : (s.setReg d (s.reg a)).reg a = s.reg a := by
  rw [State.setReg_reg, ite_eq_right_iff]
  exact fun _ => rfl

/-- The code of `abs`. -/
def absCode (d a : Reg) : List Instr := [.addu d Reg.zero a, .bgez a 1#16, .sub d Reg.zero a]

/-- A non-negative operand: the copy is the result. -/
theorem runBlock_abs_nonneg {s : State} (d : Reg) {a : Reg} (h : 0 ≤ (s.reg a).toInt) :
    runBlock s.pc (absCode d a) 3 s = .next ((s.setReg d (s.reg a)).setPc (s.pc + BitVec.ofNat 32 (4 * 3))) := by
  have hskip : exec (.bgez a 1#16) (s.setReg d (s.reg a)).advance =
      .next ((s.setReg d (s.reg a)).setPc (s.pc + BitVec.ofNat 32 (4 * 3))) := by
    rw [exec_bgez_skip (by rwa [State.advance_reg, State.setReg_copy_reg]), ← add_instrs s.pc 1 2]; rfl
  rw [runBlock_next (k := 0) (by simp) (by decide) rfl (exec_addu_zero d a s),
    runBlock_next (base := s.pc) (k := 1) rfl (by decide) rfl hskip]
  exact runBlock_done (k := 3) rfl (by decide) rfl

/-- The state in which the `sub` of `abs` is about to execute. -/
def beforeNegate (s : State) (d a : Reg) : State := (s.setReg d (s.reg a)).advance.advance

section
variable (s : State) (d a : Reg)

theorem beforeNegate_pc : (beforeNegate s d a).pc = s.pc + 8#32 := BitVec.add_assoc s.pc 4#32 4#32

theorem beforeNegate_reg : (beforeNegate s d a).reg a = s.reg a := State.setReg_copy_reg s d a

theorem beforeNegate_onlyReg : OnlyReg s (beforeNegate s d a) d (s.reg a) := setReg_onlyReg (fun _ => rfl) d _

end

/-- A negative operand: the block ends as its `sub` does. -/
theorem runBlock_abs_negative {s t : State} {d a : Reg} (h : (s.reg a).toInt < 0)
    (ht : exec (.sub d Reg.zero a) (beforeNegate s d a) = .next t) :
    runBlock s.pc (absCode d a) 3 s = .next t := by
  have hpass : exec (.bgez a 1#16) (s.setReg d (s.reg a)).advance = .next (beforeNegate s d a) :=
    exec_bgez_pass (by rwa [State.advance_reg, State.setReg_copy_reg])
  rw [runBlock_next (k := 0) (by simp) (by decide) rfl (exec_addu_zero d a s),
    runBlock_next (base := s.pc) (k := 1) rfl (by decide) rfl hpass,
    runBlock_next (k := 2) (beforeNegate_pc s d a) (by decide) rfl ht, runBlock_zero]

theorem ofNat_natAbs_of_nonneg {x : Word} (h : 0 ≤ x.toInt) : BitVec.ofNat 32 x.toInt.natAbs = x := by
  rw [← BitVec.ofInt_natCast, Int.natAbs_of_nonneg h, BitVec.ofInt_toInt]

theorem ofNat_natAbs_of_nonpos {z : Int} (h : z ≤ 0) : BitVec.ofNat 32 z.natAbs = BitVec.ofInt 32 (-z) := by
  rw [← BitVec.ofInt_natCast, Int.ofNat_natAbs_of_nonpos h]

/-- `abs`: a non-negative operand skips the `sub`; from a negative one the result is the negation, and 0x80000000
overflows. -/
theorem runBlock_abs (d a : Reg) (s : State) :
    ∃ t, runBlock s.pc (absCode d a) 3 s = .next t ∧
      (s.reg a ≠ 0x80000000#32 → OnlyReg s t d (BitVec.ofNat 32 (s.reg a).toInt.natAbs) ∧ t.pc = s.pc + 12#32 ∧
        SameHiLo s t ∧ SameMemory s t ∧ SameSystem s t) ∧
      (s.reg a = 0x80000000#32 →
        ∃ m, OnlyReg s m d 0x80000000#32 ∧ m.pc = s.pc + 8#32 ∧ SameHiLo s m ∧ SameMemory s m ∧ SameSystem s m ∧
          EntersException m t 12#4 none) := by
  by_cases hneg : (s.reg a).toInt < 0
  · obtain ⟨t, hexec, hfits, hov⟩ := exec_sub_zero_outcomes d a (beforeNegate s d a)
    rw [beforeNegate_reg] at hfits hov
    have hcopy := beforeNegate_onlyReg s d a
    refine ⟨t, runBlock_abs_negative hneg hexec, fun hne => ?_, fun heq => ?_⟩
    · obtain ⟨hreg, hpc, hhilo, hmem, hsys⟩ := hfits hne
      rw [ofNat_natAbs_of_nonpos hneg.le]
      refine ⟨hcopy.trans hreg, ?_, hhilo, hmem, hsys⟩
      rw [hpc, beforeNegate_pc, BitVec.add_assoc]; rfl
    · exact ⟨_, heq ▸ hcopy, beforeNegate_pc s d a, ⟨rfl, rfl⟩, fun _ => rfl, ⟨rfl, rfl, rfl, rfl, rfl, rfl⟩, hov heq⟩
  · have hnonneg : 0 ≤ (s.reg a).toInt := Int.not_lt.1 hneg
    refine ⟨_, runBlock_abs_nonneg d hnonneg, fun _ => ?_, fun heq => absurd (toInt_eq_min_iff.2 heq) (by omega)⟩
    rw [ofNat_natAbs_of_nonneg hnonneg]
    exact ⟨setReg_onlyReg (fun _ => rfl) d _, rfl, ⟨rfl, rfl⟩, fun _ => rfl, rfl, rfl, rfl, rfl, rfl, rfl⟩

/-- Settles O57: `abs` by the sign of its operand, `neg` as its `sub`, and the others as one register write. -/
theorem pseudoOneOperand : Obligations.PseudoOneOperand := by
  intro d a s hd ha
  refine ⟨?abs, ?neg, runBlock_setReg (expand_of_two_ne_at rfl hd ha) (exec_subu_zero d a s),
    runBlock_setReg (expand_of_two_ne_at rfl hd ha) (exec_nor_zero d a s),
    runBlock_setReg (expand_of_two_ne_at rfl hd ha) (exec_addu_zero d a s)⟩
  case abs =>
    obtain ⟨t, hrun, hres⟩ := runBlock_abs d a s
    exact ⟨absCode d a, t, expand_of_two_ne_at rfl hd ha, hrun, hres⟩
  case neg =>
    obtain ⟨t, hexec, hres⟩ := exec_sub_zero_outcomes d a s
    exact ⟨_, t, expand_of_two_ne_at rfl hd ha, runBlock_singleton hexec, hres⟩

end Sys2Proof.Machine
end

section
/-! PROOFS for `41_shift_rotate.md`, with the loading of a constant or an address (`43_constant.md` R221,
`47_load.md` R317). First the shifts of a word as arithmetic, then the instructions, then the expansions that may
overwrite `$at`. -/

namespace Sys2Proof.Machine

/-! ### The shifts of a word as arithmetic on its value (R180, R182, R184) -/

theorem shiftLeft_eq_ofNat (x : Word) (n : Nat) : x <<< n = BitVec.ofNat 32 (x.toNat * 2 ^ n) := by
  rw [← Nat.shiftLeft_eq]; rfl

/-- `Int` division by a positive number rounds toward minus infinity. -/
theorem sshiftRight_eq_ofInt (x : Word) (n : Nat) : x.sshiftRight n = BitVec.ofInt 32 (x.toInt / 2 ^ n) := by
  rw [BitVec.sshiftRight_eq, Int.shiftRight_eq_div_pow, Nat.cast_pow]; rfl

theorem ushiftRight_eq_ofNat (x : Word) (n : Nat) : x >>> n = BitVec.ofNat 32 (x.toNat / 2 ^ n) := by
  apply BitVec.eq_of_toNat_eq
  rw [BitVec.toNat_ushiftRight, Nat.shiftRight_eq_div_pow, BitVec.toNat_ofNat,
    Nat.mod_eq_of_lt (Nat.div_lt_of_lt x.isLt)]

/-! ### `sll`, `sra`, `srl` (R180, R182, R184) -/

/-- Settles O19: each writes one register, and a shift of a word is the multiplication or the floored division. -/
theorem shiftByImmediate : Obligations.ShiftByImmediate := by
  intro rd rt sa s
  rw [← shiftLeft_eq_ofNat, ← sshiftRight_eq_ofInt, ← ushiftRight_eq_ofNat]
  exact ⟨decode_of_encode_eq (i := .sll rd rt sa) rfl rfl, decode_of_encode_eq (i := .sra rd rt sa) rfl rfl,
    decode_of_encode_eq (i := .srl rd rt sa) rfl rfl, ⟨_, rfl, s.setReg_regResult rd _⟩,
    ⟨_, rfl, s.setReg_regResult rd _⟩, _, rfl, s.setReg_regResult rd _⟩

/-! ### `sllv`, `srav`, `srlv` (R181, R183, R185) -/

/-- The low five bits of a register are its value modulo 32. -/
theorem State.distance_toNat (s : State) (r : Reg) : (s.distance r).toNat = (s.reg r).toNat % 32 :=
  BitVec.extractLsb'_toNat 0 5 (s.reg r)

/-- `shift` writes to its first register the second one shifted by `f`, as far as the third says modulo 32. -/
def Shifts (shift : Reg → Reg → Reg → Instr) (f : Word → Nat → Word) : Prop :=
  ∀ (d a n : Reg) (s : State),
    exec (shift d a n) s = (s.setReg d (f (s.reg a) ((s.reg n).toNat % 32))).complete

theorem sllv_shifts : Shifts .sllv fun x n => x <<< n := fun d a n s => by
  rw [← s.distance_toNat]; rfl

theorem srav_shifts : Shifts .srav BitVec.sshiftRight := fun d a n s => by
  rw [← s.distance_toNat]; rfl

theorem srlv_shifts : Shifts .srlv fun x n => x >>> n := fun d a n s => by
  rw [← s.distance_toNat]; rfl

/-- Settles O20: the immediate shifts with the low five bits of a register for the distance. -/
theorem shiftByRegister : Obligations.ShiftByRegister := by
  intro rd rt rs s
  rw [← shiftLeft_eq_ofNat, ← sshiftRight_eq_ofInt, ← ushiftRight_eq_ofNat]
  exact ⟨decode_of_encode_eq (i := .sllv rd rt rs) rfl rfl, decode_of_encode_eq (i := .srav rd rt rs) rfl rfl,
    decode_of_encode_eq (i := .srlv rd rt rs) rfl rfl, ⟨_, sllv_shifts rd rt rs s, s.setReg_regResult rd _⟩,
    ⟨_, srav_shifts rd rt rs s, s.setReg_regResult rd _⟩, _, srlv_shifts rd rt rs s, s.setReg_regResult rd _⟩

/-! ### Expansions that may overwrite `$at` (R127) -/

/-- `t` is `s` but for `pc`, `$at` and the register `d`. -/
structure SameButAt (d : Reg) (s t : State) : Prop where
  regs : ∀ r : Reg, r ≠ d → r ≠ 1#5 → t.reg r = s.reg r
  hiLo : SameHiLo s t
  memory : SameMemory s t
  system : SameSystem s t

theorem SameButAt.refl (d : Reg) (s : State) : SameButAt d s s :=
  ⟨fun _ _ _ => rfl, ⟨rfl, rfl⟩, fun _ => rfl, rfl, rfl, rfl, rfl, rfl, rfl⟩

/-- A completing write of `d` or `$at` changes nothing else. -/
theorem SameButAt.setReg {d q : Reg} {s m : State} (h : SameButAt d s m) (hq : q = d ∨ q = 1#5) (v : Word) :
    SameButAt d s (m.setReg q v).advance := by
  refine ⟨fun r hrd hr₁ => ?_, h.hiLo, h.memory, h.system⟩
  have hrq : r ≠ q := fun he => by rcases hq with rfl | rfl <;> contradiction
  rw [State.advance_reg, State.setReg_reg_other _ _ hrq, h.regs r hrd hr₁]

/-- What touches `$at` only does not touch `d`. -/
theorem SameButAt.of_at {s m : State} (h : SameButAt 1#5 s m) (d : Reg) : SameButAt d s m :=
  ⟨fun r _ hr₁ => h.regs r hr₁ hr₁, h.hiLo, h.memory, h.system⟩

/-- The expansion of `p` leaves `v` in `d` and changes nothing else but `$at`. -/
def LeavesIn (s : State) (p : Pseudo) (d : Reg) (v : Word) : Prop :=
  ∃ code t, expand s.pc p = some code ∧ runBlock s.pc code code.length s = .next t ∧
    (d ≠ 0#5 → t.reg d = v) ∧ (∀ r : Reg, r ≠ d → r ≠ 1#5 → t.reg r = s.reg r) ∧
    t.pc = s.pc + BitVec.ofNat 32 (4 * code.length) ∧ SameHiLo s t ∧ SameMemory s t ∧ SameSystem s t

/-- Straight code that touches `d` and `$at` only, then an instruction that writes `w` to `d`. -/
theorem leavesIn_of_straight {s m : State} {p : Pseudo} {before : List Instr} {last : Instr} {d : Reg} {v w : Word}
    (hexpand : expand s.pc p = some (before ++ [last])) (hlen : before.length < 2 ^ 30)
    (hbefore : Straight before s m) (hsame : SameButAt d s m) (hlast : exec last m = (m.setReg d w).complete)
    (hv : d ≠ 0#5 → w = v) : LeavesIn s p d v := by
  have hrun := hbefore.append (.cons hlast rfl .nil)
  obtain ⟨hregs, hhilo, hmem, hsys⟩ := hsame.setReg (.inl rfl) w
  exact ⟨_, _, hexpand, runBlock_straight_all hrun (by simpa using hlen),
    fun hd => (State.setReg_reg_same m w hd).trans (hv hd), hregs, hrun.pc, hhilo, hmem, hsys⟩

/-! ### `rol`, `ror` (R186, R187) -/

/-- A distance subtracted from zero and taken modulo 32 is the rest of the 32 bits. -/
theorem zero_sub_toNat_mod (y : Word) : (0#32 - y).toNat % 32 = (32 - y.toNat % 32) % 32 := by
  have hy := y.isLt
  rw [BitVec.toNat_sub, BitVec.toNat_ofNat]
  omega

/-- The two halves of a rotation, a shift by `y` and one by `0 - y`, are those by `n` and `32 - n` for `n` the low five
bits of `y`: at `n = 0` both give the word itself, where a shift by 32 would give zero. -/
theorem or_shift_zero_sub {out back : Nat → Word} {x : Word} (hout : out 0 = x) (hback : back 0 = x)
    (hback₃₂ : back 32 = 0#32) (y : Word) :
    out (y.toNat % 32) ||| back ((0#32 - y).toNat % 32) = out (y.toNat % 32) ||| back (32 - y.toNat % 32) := by
  rw [zero_sub_toNat_mod]
  by_cases h : y.toNat % 32 = 0
  · rw [h, Nat.sub_zero, Nat.mod_self, hout, hback, hback₃₂, BitVec.or_self, BitVec.or_zero]
  · rw [Nat.mod_eq_of_lt (show 32 - y.toNat % 32 < 32 by omega)]

theorem or_shifts_eq_rotateLeft (x y : Word) :
    x <<< (y.toNat % 32) ||| x >>> ((0#32 - y).toNat % 32) = x.rotateLeft (y.toNat % 32) := by
  rw [BitVec.rotateLeft_eq_rotateLeftAux_of_lt (Nat.mod_lt _ (by decide))]
  exact or_shift_zero_sub (out := (x <<< ·)) (back := (x >>> ·)) (BitVec.shiftLeft_zero x) (BitVec.ushiftRight_zero x)
    (BitVec.ushiftRight_eq_zero (Nat.le_refl 32)) y

theorem or_shifts_eq_rotateRight (x y : Word) :
    x >>> (y.toNat % 32) ||| x <<< ((0#32 - y).toNat % 32) = x.rotateRight (y.toNat % 32) := by
  rw [BitVec.rotateRight_eq_rotateRightAux_of_lt (Nat.mod_lt _ (by decide))]
  exact or_shift_zero_sub (out := (x >>> ·)) (back := (x <<< ·)) (BitVec.ushiftRight_zero x) (BitVec.shiftLeft_zero x)
    (BitVec.shiftLeft_eq_zero (Nat.le_refl 32)) y

section
variable {out back : Reg → Reg → Reg → Instr} {f g : Word → Nat → Word} {d a b : Reg}

/-- The first two instructions of a rotation bring the bits that go round into `$at`. -/
theorem straight_shiftBack (hback : Shifts back g) (ha : a ≠ 1#5) (s : State) :
    ∃ m, Straight [.subu Reg.at Reg.zero b, back Reg.at a Reg.at] s m ∧ SameButAt 1#5 s m ∧
      m.reg Reg.at = g (s.reg a) ((0#32 - s.reg b).toNat % 32) := by
  have hat : Reg.at ≠ 0#5 := by decide
  refine ⟨_, .cons (exec_subu_zero _ b s) rfl (.cons (hback ..) rfl .nil),
    ((SameButAt.refl _ s).setReg (.inr rfl) _).setReg (.inr rfl) _, ?_⟩
  rw [State.advance_reg, State.setReg_reg_same _ _ hat, State.advance_reg, State.advance_reg,
    State.setReg_reg_same _ _ hat, State.setReg_reg_other (r := Reg.at) _ _ ha]

/-- A rotation: the operand shifted by `out` into `d`, joined with the bits brought round by `back`. -/
theorem leavesIn_of_rotate (hout : Shifts out f) (hback : Shifts back g) (hd : d ≠ 1#5) (ha : a ≠ 1#5) (hb : b ≠ 1#5)
    {s : State} {p : Pseudo} {v : Word}
    (hexpand : expand s.pc p =
      some ([.subu Reg.at Reg.zero b, back Reg.at a Reg.at] ++ [out d a b] ++ [.or d d Reg.at]))
    (hv : f (s.reg a) ((s.reg b).toNat % 32) ||| g (s.reg a) ((0#32 - s.reg b).toNat % 32) = v) :
    LeavesIn s p d v := by
  obtain ⟨m, hrun, hsame, hat⟩ := straight_shiftBack (b := b) hback ha s
  have hother : ∀ {r : Reg}, r ≠ 1#5 → m.reg r = s.reg r := fun hr => hsame.regs _ hr hr
  refine leavesIn_of_straight hexpand (by simp) (hrun.append (.cons (hout d a b m) rfl .nil))
    ((hsame.of_at d).setReg (.inl rfl) _) rfl fun hd₀ => ?_
  rw [State.advance_reg, State.advance_reg, State.setReg_reg_same _ _ hd₀,
    State.setReg_reg_other (q := Reg.at) _ _ hd.symm, hother ha, hother hb, hat, hv]

end

/-! ### `li`, `la` (R221, R317) -/

/-- The assembler accepts a pseudo-instruction whose one operand is not `$at` (R127). -/
theorem expand_of_one_ne_at {base : Word} {p : Pseudo} {d : Reg}
    (hp : pseudoLegal p = ([d].all (· != Reg.at) && true)) (hd : d ≠ 1#5) : expand base p = pseudoCode base p := by
  refine if_pos (hp.trans ?_)
  simp [Reg.at, hd]

theorem upperHalf_or_zextHalf (hi lo : Half) : upperHalf hi ||| zextHalf lo = hi ++ lo := by
  have hlo : zextHalf lo = 0#16 ++ lo := BitVec.setWidth_eq_append (by decide)
  rw [upperHalf, hlo]
  exact BitVec.or_append.trans (by rw [BitVec.or_zero, BitVec.zero_or])

/-- A word is its halves, as `lui` and `ori` put them together. -/
theorem upperHalf_or_zextHalf_halves (v : Word) :
    upperHalf (v.extractLsb' 16 16) ||| zextHalf (v.extractLsb' 0 16) = v := by
  rw [upperHalf_or_zextHalf]
  exact (BitVec.extractLsb'_append_extractLsb'_eq_extractLsb' rfl).trans BitVec.extractLsb'_eq_self

theorem zextHalf_low_of_high_zero {v : Word} (h : v.extractLsb' 16 16 = 0x0000#16) :
    zextHalf (v.extractLsb' 0 16) = v := by
  have hhalves := upperHalf_or_zextHalf_halves v
  rw [h, show upperHalf 0x0000#16 = 0#32 from rfl, BitVec.zero_or] at hhalves
  exact hhalves

theorem upperHalf_high_of_low_zero {v : Word} (h : v.extractLsb' 0 16 = 0x0000#16) :
    upperHalf (v.extractLsb' 16 16) = v := by
  have hhalves := upperHalf_or_zextHalf_halves v
  rw [h, show zextHalf 0x0000#16 = 0#32 from rfl, BitVec.or_zero] at hhalves
  exact hhalves

/-- A word whose bits 31:15 are ones is its low half sign-extended, as `addiu` takes it. -/
theorem sextHalf_low_of_ones {v : Word} (h : v.extractLsb' 15 17 = 0x1FFFF#17) :
    sextHalf (v.extractLsb' 0 16) = v := by
  have hones : v.toNat / 2 ^ 15 % 2 ^ 17 = 0x1FFFF := by
    simpa [BitVec.extractLsb'_toNat, Nat.shiftRight_eq_div_pow] using congrArg BitVec.toNat h
  apply BitVec.eq_of_toInt_eq
  rw [sextHalf, BitVec.toInt_signExtend_of_le (by decide), BitVec.toInt_eq_toNat_cond, BitVec.toInt_eq_toNat_cond,
    BitVec.extractLsb'_toNat, Nat.shiftRight_zero]
  have hv := v.isLt
  split_ifs <;> omega

theorem exec_ori_zero (d : Reg) (imm : Half) (s : State) :
    exec (.ori d Reg.zero imm) s = (s.setReg d (zextHalf imm)).complete := by
  show (s.setReg d (s.reg 0#5 ||| zextHalf imm)).complete = _
  rw [State.reg_zero, BitVec.zero_or]

theorem exec_addiu_zero (d : Reg) (imm : Half) (s : State) :
    exec (.addiu d Reg.zero imm) s = (s.setReg d (sextHalf imm)).complete := by
  show (s.setReg d (s.reg 0#5 + sextHalf imm)).complete = _
  rw [State.reg_zero, BitVec.zero_add]

section
variable {s : State} {p : Pseudo} {d : Reg} {v : Word}

theorem leavesIn_of_single {i : Instr} {w : Word} (hexpand : expand s.pc p = some [i])
    (hexec : exec i s = (s.setReg d w).complete) (hv : w = v) : LeavesIn s p d v :=
  leavesIn_of_straight (before := []) hexpand (by decide) .nil (.refl d s) hexec fun _ => hv

/-- The high half by `lui` into `$at`, then the low half by `ori` into `d`: this makes any constant. -/
theorem leavesIn_of_lui_ori (hexpand : expand s.pc p =
    some [.lui Reg.at (v.extractLsb' 16 16), .ori d Reg.at (v.extractLsb' 0 16)]) : LeavesIn s p d v := by
  refine leavesIn_of_straight (before := [_]) hexpand (by simp) (.cons rfl rfl .nil)
    ((SameButAt.refl d s).setReg (.inr rfl) _) rfl fun _ => ?_
  rw [State.advance_reg, State.setReg_reg_same _ _ (by decide), upperHalf_or_zextHalf_halves]

end

/-- `li`, along the four forms of R221. -/
theorem leavesIn_li {d : Reg} (hd : d ≠ 1#5) (v : Word) (s : State) : LeavesIn s (.li d v) d v := by
  have hexpand : expand s.pc (.li d v) = some (liCode d v) := expand_of_one_ne_at rfl hd
  unfold liCode at hexpand
  split_ifs at hexpand with hhigh hsign hlow
  · exact leavesIn_of_single hexpand (exec_ori_zero ..) (zextHalf_low_of_high_zero hhigh)
  · exact leavesIn_of_single hexpand (exec_addiu_zero ..) (sextHalf_low_of_ones hsign)
  · exact leavesIn_of_single hexpand rfl (upperHalf_high_of_low_zero hlow)
  · exact leavesIn_of_lui_ori hexpand

/-- Settles O60: the two rotations are one pair of shifts either way round; `la` is the last form of `li`. -/
theorem pseudoRotateAndConstant : Obligations.PseudoRotateAndConstant := by
  intro d a b v s hd ha hb pv hpv
  have hexpand : ∀ p, pseudoLegal p = ((d :: a :: src2Regs (.reg b)).all (· != Reg.at) && true) →
      expand s.pc p = pseudoCode s.pc p := fun p hp => expand_of_ne_at hp rfl hd ha (mt Src2.reg.inj hb)
  simp only [List.mem_cons, List.not_mem_nil, or_false] at hpv
  rcases hpv with rfl | rfl | rfl | rfl -- `rol`, `ror`, `li`, `la`
  · exact leavesIn_of_rotate sllv_shifts srlv_shifts hd ha hb (hexpand _ rfl) (or_shifts_eq_rotateLeft _ _)
  · exact leavesIn_of_rotate srlv_shifts sllv_shifts hd ha hb (hexpand _ rfl) (or_shifts_eq_rotateRight _ _)
  · exact leavesIn_li hd v s
  · exact leavesIn_of_lui_ori (expand_of_one_ne_at rfl hd)

end Sys2Proof.Machine
end

section
/-! PROOFS for `42_logical.md`. What the operators do to one bit and what a zero-extended immediate is, then the
instructions. -/

namespace Sys2Proof.Machine

/-! ### `and`, `nor`, `or`, `xor` (R200, R202, R203, R205) -/

theorem nor_getLsbD (x y : Word) {k : Nat} (hk : k < 32) :
    (~~~(x ||| y)).getLsbD k = (!x.getLsbD k && !y.getLsbD k) := by
  rw [BitVec.getLsbD_not, BitVec.getLsbD_or, decide_eq_true hk, Bool.true_and, Bool.not_or]

/-- Settles O21: each writes one register, and its operator acts on every bit by itself. -/
theorem logicalRegister : Obligations.LogicalRegister := fun rd rs rt s =>
  ⟨decode_of_encode_eq (i := .and rd rs rt) rfl rfl, decode_of_encode_eq (i := .nor rd rs rt) rfl rfl,
    decode_of_encode_eq (i := .or rd rs rt) rfl rfl, decode_of_encode_eq (i := .xor rd rs rt) rfl rfl,
    ⟨_, _, rfl, s.setReg_regResult rd _, fun _ _ => BitVec.getLsbD_and⟩,
    ⟨_, _, rfl, s.setReg_regResult rd _, fun _ => nor_getLsbD _ _⟩,
    ⟨_, _, rfl, s.setReg_regResult rd _, fun _ _ => BitVec.getLsbD_or⟩,
    _, _, rfl, s.setReg_regResult rd _, fun _ _ => BitVec.getLsbD_xor⟩

/-! ### `andi`, `ori`, `xori` (R201, R204, R206) -/

theorem zextHalf_eq_append (imm : Half) : zextHalf imm = 0x0000#16 ++ imm :=
  BitVec.setWidth_eq_append (by decide)

/-- Settles O22: each writes one register, and zero extension puts sixteen zero bits above the immediate. -/
theorem logicalImmediate : Obligations.LogicalImmediate := by
  intro rt rs imm s
  rw [← zextHalf_eq_append]
  exact ⟨decode_of_encode_eq (i := .andi rt rs imm) rfl rfl, decode_of_encode_eq (i := .ori rt rs imm) rfl rfl,
    decode_of_encode_eq (i := .xori rt rs imm) rfl rfl, ⟨_, rfl, s.setReg_regResult rt _⟩,
    ⟨_, rfl, s.setReg_regResult rt _⟩, _, rfl, s.setReg_regResult rt _⟩

end Sys2Proof.Machine
end

section
/-! PROOFS for `43_constant.md`. -/

namespace Sys2Proof.Machine

/-- Settles O23: the word is the encoding of its instruction, which writes `upperHalf imm` to one register. -/
theorem loadUpperImmediate : Obligations.LoadUpperImmediate := by
  intro rt imm s
  have hdecode : decode (0b001111#6 ++ 0b00000#5 ++ rt ++ imm) = .ok (.lui rt imm) :=
    decode_of_encode_eq (i := .lui rt imm) rfl rfl
  have hexec : exec (.lui rt imm) s = .next (s.setReg rt (upperHalf imm)).advance := rfl
  exact ⟨hdecode, _, hexec, s.setReg_regResult rt (upperHalf imm)⟩

end Sys2Proof.Machine
end

section
/-! PROOFS for `44_comparison.md`: the four comparisons, then the expansions, which either are one comparison or follow
one instruction into `rdest` by another that turns `rdest` into the result. -/

namespace Sys2Proof.Machine

/-! ### `slt`, `sltu`, `slti`, `sltiu` (R230 to R233) -/

theorem boolWord_decide (p : Prop) [Decidable p] : boolWord (decide p) = if p then 1#32 else 0#32 := by
  simp [boolWord]

/-- A signed comparison with a sign-extended immediate is one with the immediate itself. -/
theorem sextHalf_toInt (imm : Half) : (sextHalf imm).toInt = imm.toInt :=
  BitVec.toInt_signExtend_of_le (by decide)

/-- Settles O24: each writes the truth value of its comparison to one register. -/
theorem setLessThan : Obligations.SetLessThan := by
  intro rd rs rt imm s
  simp only [← boolWord_decide, ← sextHalf_toInt]
  exact ⟨decode_of_encode_eq (i := .slt rd rs rt) rfl rfl, decode_of_encode_eq (i := .sltu rd rs rt) rfl rfl,
    decode_of_encode_eq (i := .slti rt rs imm) rfl rfl, decode_of_encode_eq (i := .sltiu rt rs imm) rfl rfl,
    ⟨_, slt_compares rd rs rt s, s.setReg_regResult rd _⟩, ⟨_, sltu_compares rd rs rt s, s.setReg_regResult rd _⟩,
    ⟨_, rfl, s.setReg_regResult rt _⟩, _, rfl, s.setReg_regResult rt _⟩

/-! ### The second instruction of an expansion -/

/-- `i` replaces the value of `d` by its image under `f`. -/
def MapsReg (i : Instr) (d : Reg) (f : Word → Word) : Prop :=
  ∀ s : State, exec i s = (s.setReg d (f (s.reg d))).complete

theorem xori_one_mapsReg (d : Reg) : MapsReg (.xori d d 1#16) d (· ^^^ 1#32) := fun _ => rfl

theorem sltiu_one_mapsReg (d : Reg) : MapsReg (.sltiu d d 1#16) d fun w => boolWord (decide (w = 0#32)) := by
  intro s
  have hzero : (s.reg d).toNat < (sextHalf 1#16).toNat ↔ s.reg d = 0#32 := by
    rw [show (sextHalf 1#16).toNat = 1 from rfl, Nat.lt_one_iff, BitVec.toNat_eq, BitVec.toNat_ofNat, Nat.zero_mod]
  show (s.setReg d (boolWord (decide ((s.reg d).toNat < (sextHalf 1#16).toNat)))).complete = _
  simp only [hzero]

theorem sltu_zero_mapsReg (d : Reg) : MapsReg (.sltu d Reg.zero d) d fun w => boolWord (decide (w ≠ 0#32)) := by
  intro s
  have hpos : (s.reg Reg.zero).toNat < (s.reg d).toNat ↔ s.reg d ≠ 0#32 := by
    rw [Reg.zero, State.reg_zero, ne_eq, BitVec.toNat_eq, BitVec.toNat_ofNat, Nat.zero_mod, Nat.pos_iff_ne_zero]
  rw [sltu_compares d Reg.zero d s]
  simp only [hpos]

/-- `xori` with 1 negates a truth value. -/
theorem boolWord_xor_one (p : Bool) : boolWord p ^^^ 1#32 = boolWord !p := by cases p <;> rfl

/-! ### The expansions (R234 to R241) -/

/-- The expansion of `p` leaves `v` in `d` and changes no other register, `$at` included. -/
def SetsOnly (s : State) (p : Pseudo) (d : Reg) (v : Word) : Prop :=
  ∃ code t, expand s.pc p = some code ∧ runBlock s.pc code code.length s = .next t ∧ OnlyReg s t d v ∧
    t.pc = s.pc + BitVec.ofNat 32 (4 * code.length) ∧ SameHiLo s t ∧ SameMemory s t ∧ SameSystem s t

section
variable {s : State} {p : Pseudo} {i j : Instr} {d x y : Reg} {w v : Word} {f : Word → Word}
  {cmp : Reg → Reg → Reg → Instr} {rel : Word → Word → Bool}

theorem setsOnly_of_single (hexpand : expand s.pc p = some [i]) (hi : exec i s = (s.setReg d v).complete) :
    SetsOnly s p d v :=
  ⟨_, _, hexpand, runBlock_singleton hi, s.setReg_regResult d v⟩

/-- Two writes of `d`, the second computed from the first. With `d` register 0 the second finds zero there and not `w`,
but then neither is kept (R21). -/
theorem setsOnly_of_pair (hexpand : expand s.pc p = some [i, j]) (hi : exec i s = (s.setReg d w).complete)
    (hj : MapsReg j d f) (hv : f w = v) : SetsOnly s p d v := by
  have hrun := Straight.cons hi rfl (.cons (hj _) rfl .nil)
  obtain ⟨hd, hzero, hother⟩ : OnlyReg s _ d (f ((s.setReg d w).reg d)) :=
    (setReg_onlyReg (fun _ => rfl) d w).trans (setReg_onlyReg (fun _ => rfl) d _)
  refine ⟨_, _, hexpand, runBlock_straight_all hrun (by simp), ⟨fun hne => ?_, hzero, hother⟩, hrun.pc, ⟨rfl, rfl⟩,
    fun _ => rfl, rfl, rfl, rfl, rfl, rfl, rfl⟩
  rw [← hv]
  exact (hd hne).trans (congrArg f (State.setReg_reg_same s w hne))

/-- A comparison and its negation by `xori`. -/
theorem setsOnly_of_compare_xori (hcmp : Compares cmp rel) {q : Bool} (hq : q = true ↔ ¬rel (s.reg x) (s.reg y) = true)
    (hexpand : expand s.pc p = some [cmp d x y, .xori d d 1#16]) : SetsOnly s p d (boolWord q) := by
  refine setsOnly_of_pair hexpand (hcmp d x y s) (xori_one_mapsReg d) ?_
  have hneg : q = !rel (s.reg x) (s.reg y) := Bool.eq_iff_iff.2 (by simpa using hq)
  rw [boolWord_xor_one, hneg]

end

/-- Settles O55: `sgt` and `sgtu` are a comparison with its operands exchanged, the other orders are the negation of
one, and `seq` and `sne` compare the exclusive or of the operands with zero. -/
theorem pseudoComparisons : Obligations.PseudoComparisons := by
  intro d a b s hd ha hb
  have hexpand : ∀ p, pseudoLegal p = ((d :: a :: src2Regs (.reg b)).all (· != Reg.at) && true) →
      expand s.pc p = pseudoCode s.pc p := fun p hp => expand_of_ne_at hp rfl hd ha (mt Src2.reg.inj hb)
  simp only [List.forall_mem_cons]
  refine ⟨?seq, ?sge, ?sgeu, ?sgt, ?sgtu, ?sle, ?sleu, ?sne, List.forall_mem_nil _⟩
  case seq =>
    exact setsOnly_of_pair (hexpand _ rfl) rfl (sltiu_one_mapsReg d)
      (congrArg boolWord (decide_eq_decide.2 BitVec.xor_eq_zero_iff))
  case sge => exact setsOnly_of_compare_xori slt_compares (decide_le_iff _ _) (hexpand _ rfl)
  case sgeu => exact setsOnly_of_compare_xori sltu_compares (decide_le_iff _ _) (hexpand _ rfl)
  case sgt => exact setsOnly_of_single (hexpand _ rfl) (slt_compares d b a s)
  case sgtu => exact setsOnly_of_single (hexpand _ rfl) (sltu_compares d b a s)
  case sle => exact setsOnly_of_compare_xori slt_compares (decide_le_iff _ _) (hexpand _ rfl)
  case sleu => exact setsOnly_of_compare_xori sltu_compares (decide_le_iff _ _) (hexpand _ rfl)
  case sne =>
    exact setsOnly_of_pair (hexpand _ rfl) rfl (sltu_zero_mapsReg d)
      (congrArg boolWord (decide_eq_decide.2 (not_congr BitVec.xor_eq_zero_iff)))

end Sys2Proof.Machine
end

section
/-! PROOFS for `45_branch_jump.md`. What a transfer of control leaves behind and which tests and targets the branches
use (R250, R251, R259), then the branches and the jumps. -/

namespace Sys2Proof.Machine

/-! ### What a branch or jump leaves behind (R250, R259) -/

section
variable (s : State) (rd : Reg) {v target : Word}

theorem State.setPc_jumpResult (hv : v = target) : JumpResult s (s.setPc v) target :=
  ⟨hv, fun _ => rfl, ⟨rfl, rfl⟩, fun _ => rfl, rfl, rfl, rfl, rfl, rfl, rfl⟩

theorem State.setReg_link_linkResult (hv : v = target) : LinkResult s ((s.setReg rd s.link).setPc v) rd target :=
  ⟨setReg_onlyReg (fun _ => rfl) rd s.link, hv, ⟨rfl, rfl⟩, fun _ => rfl, rfl, rfl, rfl, rfl, rfl, rfl⟩

variable {c : Bool} {p : Prop} [Decidable p] (hc : c = true ↔ p)
include hc

theorem State.branchTo_leaves :
    ∃ t, s.branchTo c target = .next t ∧ JumpResult s t (if p then target else s.pc + 4#32) :=
  ⟨_, rfl, s.setPc_jumpResult (if_congr hc rfl rfl)⟩

/-- The link is written on both sides of the branch, and the test `c` is taken before it. -/
theorem State.branchTo_leaves_link :
    ∃ t, (s.setReg rd s.link).branchTo c target = .next t ∧
      LinkResult s t rd (if p then target else s.pc + 4#32) :=
  ⟨_, rfl, s.setReg_link_linkResult rd (if_congr hc rfl rfl)⟩

end

/-! ### The signed tests on the sign bit and on zero (R254 to R257) -/

theorem toInt_neg_iff_msb (x : Word) : x.toInt < 0 ↔ x.msb = true := by
  rw [BitVec.msb_eq_toInt, decide_eq_true_iff]

theorem toInt_nonneg_iff_msb (x : Word) : 0 ≤ x.toInt ↔ x.msb = false := by
  rw [← Int.not_lt, toInt_neg_iff_msb, Bool.not_eq_true]

theorem toInt_eq_zero_iff (x : Word) : x.toInt = 0 ↔ x = 0#32 := by
  rw [← BitVec.toInt_inj, BitVec.toInt_zero]

theorem toInt_nonpos_iff_msb (x : Word) : x.toInt ≤ 0 ↔ x.msb = true ∨ x = 0#32 := by
  rw [Int.le_iff_lt_or_eq, toInt_neg_iff_msb, toInt_eq_zero_iff]

theorem toInt_pos_iff_msb (x : Word) : 0 < x.toInt ↔ x.msb = false ∧ x ≠ 0#32 := by
  rw [← Int.not_le, toInt_nonpos_iff_msb, not_or, Bool.not_eq_true]

/-! ### The branch target as a number (R251) -/

/-- Sign extension, the shift by two bits and the additions wrap, so only the sum counts modulo 2^32. -/
theorem branchTarget_eq_ofInt (pc : Word) (imm : Half) :
    branchTarget pc imm = BitVec.ofInt 32 (pc.toNat + 4 + 4 * imm.toInt) := by
  have hshift : sextHalf imm <<< 2 = 4#32 * BitVec.ofInt 32 imm.toInt := by
    rw [BitVec.shiftLeft_eq_mul_twoPow, BitVec.mul_comm]; rfl
  rw [branchTarget, hshift, BitVec.ofInt_add, BitVec.ofInt_add, BitVec.ofInt_mul, ofInt_toNat]; rfl

/-! ### The conditional branches (R252 to R257, R260, R261) -/

/-- Settles O25: each is `branchTo` under its condition, which for the last four is a test of the sign. -/
theorem conditionalBranches : Obligations.ConditionalBranches := by
  intro rs rt imm s taken next htaken hnext
  obtain rfl := htaken.trans (branchTarget_eq_ofInt s.pc imm).symm
  obtain rfl : next = s.pc + 4#32 := hnext
  exact ⟨decode_of_encode_eq (i := .beq rs rt imm) rfl rfl, decode_of_encode_eq (i := .bne rs rt imm) rfl rfl,
    decode_of_encode_eq (i := .bgez rs imm) rfl rfl, decode_of_encode_eq (i := .bgtz rs imm) rfl rfl,
    decode_of_encode_eq (i := .blez rs imm) rfl rfl, decode_of_encode_eq (i := .bltz rs imm) rfl rfl,
    s.branchTo_leaves beq_iff_eq, s.branchTo_leaves bne_iff_ne,
    s.branchTo_leaves (decide_eq_true_iff.trans (toInt_nonneg_iff_msb _)),
    s.branchTo_leaves (decide_eq_true_iff.trans (toInt_pos_iff_msb _)),
    s.branchTo_leaves (decide_eq_true_iff.trans (toInt_nonpos_iff_msb _)),
    s.branchTo_leaves (decide_eq_true_iff.trans (toInt_neg_iff_msb _))⟩

/-- Settles O26: each is `branchTo` after the link, under a condition on the registers before it. -/
theorem linkingBranches : Obligations.LinkingBranches := by
  intro rs imm s taken next htaken hnext
  obtain rfl := htaken.trans (branchTarget_eq_ofInt s.pc imm).symm
  obtain rfl : next = s.pc + 4#32 := hnext
  exact ⟨decode_of_encode_eq (i := .bgezal rs imm) rfl rfl, decode_of_encode_eq (i := .bltzal rs imm) rfl rfl,
    s.branchTo_leaves_link Reg.ra decide_eq_true_iff, s.branchTo_leaves_link Reg.ra decide_eq_true_iff⟩

/-! ### The jumps (R262 to R265) -/

/-- Settles O27: both set `pc` to `jumpTarget`, `jal` after the link. -/
theorem jumps : Obligations.Jumps := fun target s =>
  ⟨decode_of_encode_eq (i := .j target) rfl rfl, decode_of_encode_eq (i := .jal target) rfl rfl,
    ⟨_, rfl, s.setPc_jumpResult rfl⟩, _, rfl, s.setReg_link_linkResult Reg.ra rfl⟩

/-- Settles O28: both set `pc` to a register as it was, `jalr` after the link. -/
theorem registerJumps : Obligations.RegisterJumps := fun rd rs s =>
  ⟨decode_of_encode_eq (i := .jr rs) rfl rfl, decode_of_encode_eq (i := .jalr rd rs) rfl rfl,
    ⟨_, rfl, s.setPc_jumpResult rfl⟩, _, rfl, s.setReg_link_linkResult rd rfl⟩

end Sys2Proof.Machine
end

section
/-! PROOFS for `46_store.md`. First what a store of whole bytes leaves behind and the exceptions of a store (R67, R295),
then `sb`, `sh`, `sw`; then the partial stores (R293, R294), of which in either byte order one runs from its address up
to the end of the aligned word and the other down to its beginning; last the pair of them. -/

namespace Sys2Proof.Machine

/-! ### The byte of a value that goes to each address (R62) -/

theorem wordByte_eq_extractLsb' (e : Endian) (v : Word) (k : Nat) :
    wordByte e v k = v.extractLsb' (bytePlace e 4 k) 8 := by
  cases e <;> rfl

theorem halfByte_eq_extractLsb' (e : Endian) (v : Word) (k : Nat) :
    halfByte e v k = v.extractLsb' (bytePlace e 2 k) 8 := by
  cases e <;> rfl

theorem State.wordAt_wordByte (s : State) (a : Word) {k : Nat} (hk : k < 4) :
    wordByte s.par.endian (s.wordAt a) k = s.byteAt (a + BitVec.ofNat 32 k) := by
  rw [wordByte_eq_extractLsb', s.wordAt_byte a hk]

theorem State.setHalf_byteAt_add (s : State) (a v : Word) {k : Nat} (hk : k < 2) :
    (s.setHalf a v).byteAt (a + BitVec.ofNat 32 k) = v.extractLsb' (bytePlace s.par.endian 2 k) 8 := by
  rw [State.setHalf_byteAt, ← halfByte_eq_extractLsb']
  interval_cases k <;> simp

theorem State.setWord_byteAt_add (s : State) (a v : Word) {k : Nat} (hk : k < 4) :
    (s.setWord a v).byteAt (a + BitVec.ofNat 32 k) = wordByte s.par.endian v k := by
  rw [State.setWord_byteAt]
  interval_cases k <;> simp

/-! ### What a store leaves behind (R67, R295) -/

section
variable {s t : State} {n : Nat} {T T' : Nat → Prop} {addr addr' : Nat → Word} {byte byte' : Nat → Byte}

/-- A store is described by the bytes it writes, in whatever order they are listed. -/
theorem StoreResult.relist (h : StoreResult s t n T addr byte)
    (hnew : ∀ i < n, T' i → ∃ j < n, T j ∧ addr' i = addr j ∧ byte' i = byte j)
    (hold : ∀ j < n, T j → ∃ i < n, T' i ∧ addr j = addr' i) : StoreResult s t n T' addr' byte' := by
  obtain ⟨hbytes, hothers, hframe⟩ := h
  refine ⟨fun i hi hT => ?_, fun x hx => hothers x fun j hj hT => ?_, hframe⟩
  · obtain ⟨j, hj, hTj, haddr, hbyte⟩ := hnew i hi hT
    rw [haddr, hbyte, hbytes j hj hTj]
  · obtain ⟨i, hi, hTi, haddr⟩ := hold j hj hT
    rw [haddr]
    exact hx i hi hTi

/-- What changes the memory and nothing else, and then completes, is judged by the bytes. -/
theorem StoreResult.of_mem {s' : State} {m : Memory} (hs' : s' = { s with mem := m })
    (hbytes : ∀ i < n, T i → s'.byteAt (addr i) = byte i)
    (hothers : ∀ x : Word, (∀ i < n, T i → x ≠ addr i) → s'.byteAt x = s.byteAt x) :
    StoreResult s s'.advance n T addr byte := by
  subst hs'
  exact ⟨hbytes, hothers, rfl, fun _ => rfl, ⟨rfl, rfl⟩, rfl, rfl, rfl, rfl, rfl, rfl⟩

theorem State.setByte_storeResult (s : State) (a : Word) (b : Byte) :
    StoreResult s (s.setByte a b).advance 1 (fun _ => True) (fun _ => a) (fun _ => b) := by
  refine .of_mem rfl (fun _ _ _ => ?_) fun x hx => ?_
  · rw [State.setByte_byteAt, if_pos rfl]
  · rw [State.setByte_byteAt, if_neg (hx 0 (by decide) trivial)]

theorem State.setHalf_storeResult (s : State) (a v : Word) :
    StoreResult s (s.setHalf a v).advance 2 (fun _ => True) (fun k => a + BitVec.ofNat 32 k)
      (fun k => v.extractLsb' (bytePlace s.par.endian 2 k) 8) := by
  refine .of_mem rfl (fun k hk _ => s.setHalf_byteAt_add a v hk) fun x hx => ?_
  obtain h | ⟨k, hk, hxk⟩ := s.setHalf_byteAt_eq_or a v x
  · exact h
  · exact absurd hxk (hx k hk trivial)

/-- A word whose bytes are the new ones where `T` holds and elsewhere those in memory: only the former change. -/
theorem State.setWord_storeResult {a v : Word} [DecidablePred T]
    (hv : ∀ k < 4, wordByte s.par.endian v k = if T k then byte k else s.byteAt (a + BitVec.ofNat 32 k)) :
    StoreResult s (s.setWord a v).advance 4 T (fun k => a + BitVec.ofNat 32 k) byte := by
  refine .of_mem rfl (fun k hk hT => ?_) fun x hx => ?_
  · rw [s.setWord_byteAt_add a v hk, hv k hk, if_pos hT]
  · obtain h | ⟨k, hk, rfl⟩ := s.setWord_byteAt_eq_or a v x
    · exact h
    · rw [s.setWord_byteAt_add a v hk, hv k hk, if_neg fun hT => hx k hk hT rfl]

end

/-! ### The exceptions of a store (R66, R67, R379) -/

section
variable {s : State} {a : Word} {n : Nat} (s' : State)

theorem State.storeMem_misaligned (ha : a.toNat % n ≠ 0) :
    ∃ t, s.storeMem a n s' = .next t ∧ EntersException s t 5#4 (some a) := by
  rcases s.storeMem_cases a n s' with ⟨he, -⟩ | ⟨e, he, hm⟩
  · exact absurd (accessError_eq_none.1 he).1 ha
  · cases (accessError_misaligned ha).symm.trans he
    exact ⟨_, hm, s.raise_enters (.adES a)⟩

theorem State.storeMem_unbacked (ha : a.toNat % n = 0)
    (hk : ∃ k < n, backed s.par (a + BitVec.ofNat 32 k) = false) :
    ∃ t, s.storeMem a n s' = .next t ∧ EntersException s t 7#4 none := by
  have hb : allBacked s.par a n = false := allBacked_eq_false_iff.2 hk
  rcases s.storeMem_cases a n s' with ⟨he, -⟩ | ⟨e, he, hm⟩
  · cases (accessError_eq_none.1 he).2.symm.trans hb
  · cases (accessError_unbacked ha hb).symm.trans he
    exact ⟨_, hm, s.raise_enters .dbe⟩

end

/-! ### `sb`, `sh`, `sw` (R290 to R292) -/

/-- The effective address as the exact sum modulo 2^32 (R74). -/
theorem State.effAddr_eq_ofInt (s : State) (rs : Reg) (imm : Half) :
    s.effAddr rs imm = BitVec.ofInt 32 ((s.reg rs).toNat + imm.toInt) :=
  add_sextHalf_eq_ofInt _ _

theorem getLsbD_zero_eq_false_iff {a : Word} : a.getLsbD 0 = false ↔ a.toNat % 2 = 0 := by
  simp [BitVec.getLsbD, Nat.testBit_zero]

/-- Settles O34: one byte is always aligned, so only its backing is checked. -/
theorem byteStore : Obligations.ByteStore := by
  intro rt rs imm s a ha
  obtain rfl := ha.trans (s.effAddr_eq_ofInt rs imm).symm
  refine ⟨decode_of_encode_eq (i := .sb rt rs imm) rfl rfl, fun hb => ?_, fun hb => ?_⟩
  · exact ⟨_, State.storeMem_stores _ (Nat.mod_one _) (by simpa using hb), s.setByte_storeResult _ _⟩
  · exact State.storeMem_unbacked _ (Nat.mod_one _) ⟨0, by decide, by simpa using hb⟩

/-- Settles O35: `sh` is `storeMem` of a halfword, and the last bit of the address decides its alignment. -/
theorem halfStore : Obligations.HalfStore := by
  intro rt rs imm s a ha
  obtain rfl := ha.trans (s.effAddr_eq_ofInt rs imm).symm
  refine ⟨decode_of_encode_eq (i := .sh rt rs imm) rfl rfl, fun heven hb₀ hb₁ => ?_,
    fun hodd => State.storeMem_misaligned _ (mt getLsbD_zero_eq_false_iff.2 (ne_false_of_eq_true hodd)),
    fun heven hb => State.storeMem_unbacked _ (getLsbD_zero_eq_false_iff.1 heven) ?_⟩
  · refine ⟨_, State.storeMem_stores _ (getLsbD_zero_eq_false_iff.1 heven) fun k hk => ?_, s.setHalf_storeResult _ _⟩
    interval_cases k
    · simpa using hb₀
    · simpa using hb₁
  · obtain hb | hb := hb
    · exact ⟨0, by decide, by simpa using hb⟩
    · exact ⟨1, by decide, by simpa using hb⟩

/-- Settles O36: `sw` is `storeMem` of a word all of whose bytes are new. -/
theorem wordStore : Obligations.WordStore := by
  intro rt rs imm s a ha
  obtain rfl := ha.trans (s.effAddr_eq_ofInt rs imm).symm
  refine ⟨decode_of_encode_eq (i := .sw rt rs imm) rfl rfl, fun hal hb => ?_,
    fun hal => State.storeMem_misaligned _ (mt extractLsb'_low_eq_zero_iff.2 hal),
    fun hal hb => State.storeMem_unbacked _ (extractLsb'_low_eq_zero_iff.1 hal) hb⟩
  refine ⟨_, State.storeMem_stores _ (extractLsb'_low_eq_zero_iff.1 hal) hb, State.setWord_storeResult fun k _ => ?_⟩
  rw [if_pos trivial, wordByte_eq_extractLsb']

/-! ### The merged word, byte by byte (R293, R294) -/

/-- The mask of the low `n` bits. -/
theorem getLsbD_lowMask {n i : Nat} (hi : i < 32) :
    ((1#32 <<< n) - 1#32).getLsbD i = decide (i < n) := by
  have hpow : 1#32 <<< n = BitVec.ofNat 32 (2 ^ n) := by
    rw [shiftLeft_eq_ofNat, BitVec.toNat_ofNat, Nat.mod_eq_of_lt (by decide), Nat.one_mul]
  rw [hpow, BitVec.ofNat_sub_ofNat_of_le _ _ (by decide) (Nat.one_le_two_pow), BitVec.getLsbD_ofNat,
    Nat.testBit_two_pow_sub_one]
  simp [hi]

/-- The mask of the high bits that a shift right by `n` leaves free. -/
theorem getLsbD_highMask {n i : Nat} (hi : i < 32) :
    (~~~(0xFFFFFFFF#32 >>> n)).getLsbD i = decide (32 ≤ n + i) := by
  rw [BitVec.getLsbD_not, BitVec.getLsbD_ushiftRight, show 0xFFFFFFFF#32 = BitVec.allOnes 32 from rfl,
    BitVec.getLsbD_allOnes]
  simp only [hi, decide_true, Bool.true_and, ← decide_not, Nat.not_lt]

section
variable (v w : Word) (m : Nat) {p : Nat} (hp : p < 4)
include hp

theorem mergeStoreLeft_byte : (mergeStoreLeft (8 * m) v w).extractLsb' (8 * p) 8 =
    if p + m < 4 then v.extractLsb' (8 * (p + m)) 8 else w.extractLsb' (8 * p) 8 := by
  apply BitVec.eq_of_getLsbD_eq
  intro i hi
  rw [BitVec.getLsbD_extractLsb', mergeStoreLeft, BitVec.getLsbD_or, BitVec.getLsbD_ushiftRight, BitVec.getLsbD_and,
    getLsbD_highMask (by omega)]
  split_ifs with h
  · have hin : ¬32 ≤ 8 * m + (8 * p + i) := by omega
    simp [hin, Nat.mul_add, Nat.add_left_comm, Nat.add_assoc]
  · have hout : 32 ≤ 8 * m + (8 * p + i) := by omega
    rw [BitVec.getLsbD_of_ge v _ hout]
    simp [hout]

theorem mergeStoreRight_byte : (mergeStoreRight (8 * m) v w).extractLsb' (8 * p) 8 =
    if m ≤ p then v.extractLsb' (8 * (p - m)) 8 else w.extractLsb' (8 * p) 8 := by
  apply BitVec.eq_of_getLsbD_eq
  intro i hi
  rw [BitVec.getLsbD_extractLsb', mergeStoreRight, BitVec.getLsbD_or, BitVec.getLsbD_shiftLeft, BitVec.getLsbD_and,
    getLsbD_lowMask (by omega)]
  split_ifs with h
  · have hin : ¬8 * p + i < 8 * m := by omega
    have hbit : 8 * p + i - 8 * m = 8 * (p - m) + i := by omega
    have hword : 8 * p + i < 32 := by omega
    simp [hin, hbit, hword]
  · have hout : 8 * p + i < 8 * m := by omega
    simp [hout]

end

/-! ### A partial store from its address up, and one from its address down -/

/-- The partial store that runs from its address to the end of the aligned word. -/
def storeUp (e : Endian) (rt rs : Reg) (imm : Half) : Instr :=
  match e with
  | .big => .swl rt rs imm
  | .little => .swr rt rs imm

/-- The partial store that runs from its address to the beginning of the aligned word. -/
def storeDown (e : Endian) (rt rs : Reg) (imm : Half) : Instr :=
  match e with
  | .big => .swr rt rs imm
  | .little => .swl rt rs imm

/-- The word that `storeUp` leaves, for an address `b` bytes into the aligned word. -/
def mergeUp (e : Endian) (b : Nat) (v w : Word) : Word :=
  match e with
  | .big => mergeStoreLeft (8 * b) v w
  | .little => mergeStoreRight (8 * b) v w

/-- The word that `storeDown` leaves, for an address `b` bytes into the aligned word. -/
def mergeDown (e : Endian) (b : Nat) (v w : Word) : Word :=
  match e with
  | .big => mergeStoreRight (8 * (3 - b)) v w
  | .little => mergeStoreLeft (8 * (3 - b)) v w

section
variable (e : Endian) (v w : Word) {b j : Nat} (hb : b < 4) (hj : j < 4)
include hb hj

/-- The first bytes of the value go to the bytes of the word from `b` on. -/
theorem mergeUp_wordByte :
    wordByte e (mergeUp e b v w) j = if b ≤ j then wordByte e v (j - b) else wordByte e w j := by
  cases e with
  | little => exact mergeStoreRight_byte v w b hj
  | big =>
    have hiff : 3 - j + b < 4 ↔ b ≤ j := by omega
    have hplace (h : b ≤ j) : 3 - j + b = 3 - (j - b) := by omega
    refine (mergeStoreLeft_byte v w b (p := 3 - j) (by omega)).trans
      (ite_congr (propext hiff) (fun h => ?_) fun _ => rfl)
    rw [hplace h]; rfl

/-- The last bytes of the value go to the bytes of the word up to `b`. -/
theorem mergeDown_wordByte :
    wordByte e (mergeDown e b v w) j = if j ≤ b then wordByte e v (j + (3 - b)) else wordByte e w j := by
  cases e with
  | little =>
    have hiff : j + (3 - b) < 4 ↔ j ≤ b := by omega
    exact (mergeStoreLeft_byte v w (3 - b) hj).trans (if_congr hiff rfl rfl)
  | big =>
    have hiff : 3 - b ≤ 3 - j ↔ j ≤ b := by omega
    have hplace : 3 - j - (3 - b) = 3 - (j + (3 - b)) := by omega
    refine (mergeStoreRight_byte v w (3 - b) (p := 3 - j) (by omega)).trans (if_congr hiff ?_ rfl)
    rw [hplace]; rfl

end

section
variable {s : State} {rt rs : Reg} {imm : Half} {a : Word} (ha : s.effAddr rs imm = a)
include ha

theorem exec_swl : exec (.swl rt rs imm) s = s.storeMem (alignedWord a) 4 (s.setWord (alignedWord a)
    (mergeStoreLeft (leftShift s.par.endian a) (s.reg rt) (s.wordAt (alignedWord a)))) := by
  subst ha; rfl

theorem exec_swr : exec (.swr rt rs imm) s = s.storeMem (alignedWord a) 4 (s.setWord (alignedWord a)
    (mergeStoreRight (rightShift s.par.endian a) (s.reg rt) (s.wordAt (alignedWord a)))) := by
  subst ha; rfl

theorem exec_storeUp : exec (storeUp s.par.endian rt rs imm) s = s.storeMem (alignedWord a) 4
    (s.setWord (alignedWord a) (mergeUp s.par.endian (a.toNat % 4) (s.reg rt) (s.wordAt (alignedWord a)))) := by
  cases h : s.par.endian with
  | little => exact (exec_swr ha).trans (by rw [h]; rfl)
  | big => exact (exec_swl ha).trans (by rw [h]; rfl)

theorem exec_storeDown : exec (storeDown s.par.endian rt rs imm) s = s.storeMem (alignedWord a) 4
    (s.setWord (alignedWord a) (mergeDown s.par.endian (a.toNat % 4) (s.reg rt) (s.wordAt (alignedWord a)))) := by
  cases h : s.par.endian with
  | little => exact (exec_swl ha).trans (by rw [h]; rfl)
  | big => exact (exec_swr ha).trans (by rw [h]; rfl)

variable (hb : ∀ k < 4, backed s.par (alignedWord a + BitVec.ofNat 32 k) = true)
include hb

/-- Byte `k` of the value in memory order goes to `a + k`, as far as that stays in the aligned word. -/
theorem exec_storeUp_stores : ∃ t, exec (storeUp s.par.endian rt rs imm) s = .next t ∧
    StoreResult s t 4 (fun k => a.toNat % 4 + k < 4) (fun k => a + BitVec.ofNat 32 k)
      (fun k => wordByte s.par.endian (s.reg rt) k) := by
  have haddr : ∀ k, a + BitVec.ofNat 32 k = alignedWord a + BitVec.ofNat 32 (a.toNat % 4 + k) := fun k => by
    rw [BitVec.ofNat_add, ← BitVec.add_assoc, alignedWord_add]
  have hword := State.setWord_storeResult (s := s) (a := alignedWord a) (T := fun j => a.toNat % 4 ≤ j)
    (byte := fun j => wordByte s.par.endian (s.reg rt) (j - a.toNat % 4)) fun j hj => by
      rw [mergeUp_wordByte _ _ _ (Nat.mod_lt _ (by decide)) hj, s.wordAt_wordByte _ hj]
  refine ⟨_, (exec_storeUp ha).trans (State.storeMem_stores _ (alignedWord_mod a) hb),
    hword.relist (fun k _ hT => ?_) fun j hj hT => ?_⟩
  · exact ⟨a.toNat % 4 + k, hT, Nat.le_add_right _ _, haddr k, by rw [Nat.add_sub_cancel_left]⟩
  · exact ⟨j - a.toNat % 4, by omega, by omega, by rw [haddr, Nat.add_sub_cancel' hT]⟩

/-- Byte `3 - k` of the value in memory order goes to `a - k`, as far as that stays in the aligned word. -/
theorem exec_storeDown_stores : ∃ t, exec (storeDown s.par.endian rt rs imm) s = .next t ∧
    StoreResult s t 4 (fun k => k ≤ a.toNat % 4) (fun k => a - BitVec.ofNat 32 k)
      (fun k => wordByte s.par.endian (s.reg rt) (3 - k)) := by
  have hlt : a.toNat % 4 < 4 := Nat.mod_lt _ (by decide)
  have haddr : ∀ k ≤ a.toNat % 4, a - BitVec.ofNat 32 k = alignedWord a + BitVec.ofNat 32 (a.toNat % 4 - k) :=
    fun k hk => by
      rw [BitVec.sub_eq_iff_eq_add, BitVec.add_assoc, ← BitVec.ofNat_add, Nat.sub_add_cancel hk, alignedWord_add]
  have hword := State.setWord_storeResult (s := s) (a := alignedWord a) (T := fun j => j ≤ a.toNat % 4)
    (byte := fun j => wordByte s.par.endian (s.reg rt) (j + (3 - a.toNat % 4))) fun j hj => by
      rw [mergeDown_wordByte _ _ _ hlt hj, s.wordAt_wordByte _ hj]
  refine ⟨_, (exec_storeDown ha).trans (State.storeMem_stores _ (alignedWord_mod a) hb),
    hword.relist (fun k _ hT => ?_) fun j hj hT => ?_⟩
  · have hbyte : 3 - k = a.toNat % 4 - k + (3 - a.toNat % 4) := by omega
    exact ⟨a.toNat % 4 - k, by omega, Nat.sub_le _ _, haddr k hT, by rw [hbyte]⟩
  · exact ⟨a.toNat % 4 - j, by omega, Nat.sub_le _ _, by rw [haddr _ (Nat.sub_le _ _), Nat.sub_sub_self hT]⟩

end

/-! ### `swl`, `swr` (R293, R294) -/

theorem sub_offset_eq_alignedWord (a : Word) : a - BitVec.ofNat 32 (a.toNat % 4) = alignedWord a := by
  rw [BitVec.sub_eq_iff_eq_add, alignedWord_add]

/-- Settles O37: in either byte order one of the two is the store up and the other the store down. The byte places agree
by computation, except that in the big order byte `3 - k` has the place `8 * k` for `k < 4` only. -/
theorem partialStores : Obligations.PartialStores := by
  intro rt rs imm s a b ha hb
  obtain rfl := ha.trans (s.effAddr_eq_ofInt rs imm).symm
  subst hb
  rw [sub_offset_eq_alignedWord]
  refine ⟨decode_of_encode_eq (i := .swl rt rs imm) rfl rfl, decode_of_encode_eq (i := .swr rt rs imm) rfl rfl,
    fun hback => ?_, fun hhole => ?_⟩
  · have hup := exec_storeUp_stores (rt := rt) (rs := rs) (imm := imm) rfl hback
    have hdown := exec_storeDown_stores (rt := rt) (rs := rs) (imm := imm) rfl hback
    generalize s.par.endian = e at hup hdown ⊢
    cases e with
    | little => exact ⟨hdown, hup⟩
    | big =>
      obtain ⟨t, hexec, hres⟩ := hdown
      refine ⟨hup, t, hexec, hres.relist (fun k hk hT => ⟨k, hk, hT, rfl, ?_⟩) fun k hk hT => ⟨k, hk, hT, rfl⟩⟩
      rw [wordByte, Nat.sub_sub_self (Nat.le_of_lt_succ hk)]
  · exact ⟨State.storeMem_unbacked _ (alignedWord_mod _) hhole, State.storeMem_unbacked _ (alignedWord_mod _) hhole⟩

/-! ### The pair (R296) -/

section
variable {s t₁ t₂ : State} {n : Nat} {T₁ T₂ : Nat → Prop} {addr : Nat → Word} {byte : Nat → Byte}

/-- Two stores that write the same byte to each of `n` distinct addresses, and between them reach all of these. -/
theorem StoreResult.join (h₁ : StoreResult s t₁ n T₁ addr byte) (h₂ : StoreResult t₁ t₂ n T₂ addr byte)
    (hinj : ∀ i < n, ∀ j < n, addr i = addr j → i = j) (hall : ∀ i < n, T₁ i ∨ T₂ i) :
    (∀ i < n, t₂.byteAt (addr i) = byte i) ∧
      (∀ x : Word, (∀ i < n, x ≠ addr i) → t₂.byteAt x = s.byteAt x) ∧
      SameRegs s t₂ ∧ t₂.pc = s.pc + 8#32 ∧ SameHiLo s t₂ ∧ SameSystem s t₂ := by
  obtain ⟨hbytes₁, hothers₁, hpc₁, hregs₁, ⟨hhi₁, hlo₁⟩, hbad₁, hstatus₁, hcause₁, hepc₁, hstep₁, hpar₁⟩ := h₁
  obtain ⟨hbytes₂, hothers₂, hpc₂, hregs₂, ⟨hhi₂, hlo₂⟩, hbad₂, hstatus₂, hcause₂, hepc₂, hstep₂, hpar₂⟩ := h₂
  refine ⟨fun i hi => ?_, fun x hx => ?_, fun r => (hregs₂ r).trans (hregs₁ r), ?_,
    ⟨hhi₂.trans hhi₁, hlo₂.trans hlo₁⟩, hbad₂.trans hbad₁, hstatus₂.trans hstatus₁, hcause₂.trans hcause₁,
    hepc₂.trans hepc₁, hstep₂.trans hstep₁, hpar₂.trans hpar₁⟩
  · by_cases hT₂ : T₂ i
    · exact hbytes₂ i hi hT₂
    · rw [hothers₂ _ fun j hj hTj heq => hT₂ (hinj i hi j hj heq ▸ hTj)]
      exact hbytes₁ i hi ((hall i hi).resolve_right hT₂)
  · exact (hothers₂ x fun i hi _ => hx i hi).trans (hothers₁ x fun i hi _ => hx i hi)
  · rw [hpc₂, hpc₁, BitVec.add_assoc]; rfl

end

theorem add_ofNat_inj (a : Word) {i j : Nat} (hi : i < 4) (hj : j < 4)
    (h : a + BitVec.ofNat 32 i = a + BitVec.ofNat 32 j) : i = j := by
  have hnat := congrArg BitVec.toNat ((BitVec.add_right_inj a).1 h)
  simp only [BitVec.toNat_ofNat] at hnat
  omega

/-- The store down from `a + 3`, its bytes listed from `a` up. -/
theorem exec_storeDown_three_stores {s : State} (rt : Reg) {rs : Reg} {a : Word} (ha : s.reg rs = a)
    (hb : ∀ k < 4, backed s.par (alignedWord (a + 3#32) + BitVec.ofNat 32 k) = true) :
    ∃ t, exec (storeDown s.par.endian rt rs 3#16) s = .next t ∧
      StoreResult s t 4 (fun k => 3 - k ≤ (a + 3#32).toNat % 4) (fun k => a + BitVec.ofNat 32 k)
        (fun k => wordByte s.par.endian (s.reg rt) k) := by
  have haddr : ∀ k < 4, a + BitVec.ofNat 32 k = a + 3#32 - BitVec.ofNat 32 (3 - k) := fun k hk => by
    rw [BitVec.eq_sub_iff_add_eq, BitVec.add_assoc, ← BitVec.ofNat_add, Nat.add_sub_cancel' (Nat.le_of_lt_succ hk)]
  have heff : s.effAddr rs 3#16 = a + 3#32 := by rw [← ha]; exact s.effAddr_ofNat rs (by decide)
  obtain ⟨t, hexec, hres⟩ := exec_storeDown_stores (rt := rt) heff hb
  refine ⟨t, hexec, hres.relist (fun k hk hT => ?_) fun k hk hT => ?_⟩
  · exact ⟨3 - k, by omega, hT, haddr k hk, by rw [Nat.sub_sub_self (Nat.le_of_lt_succ hk)]⟩
  · have hk3 : 3 - (3 - k) = k := Nat.sub_sub_self (Nat.le_of_lt_succ hk)
    exact ⟨3 - k, by omega, by rwa [hk3], by rw [haddr (3 - k) (by omega), hk3]⟩

/-- Settles O39: the store up from `A` and the store down from `A + 3` write the same byte to each `A + k`, and between
them they reach all four. -/
theorem unalignedStorePair : Obligations.UnalignedStorePair := by
  intro rt rs s a ha hback₁ hback₂
  obtain ⟨t₁, hexec₁, hup⟩ := exec_storeUp_stores (rt := rt) ((s.effAddr_zero rs).trans ha.symm) hback₁
  have ⟨_, _, _, hregs, _, _, _, _, _, _, hpar⟩ := hup
  obtain ⟨t₂, hexec₂, hdown⟩ := exec_storeDown_three_stores rt ((hregs rs).trans ha.symm) (by rwa [hpar])
  rw [hpar, hregs rt] at hdown
  rw [hpar] at hexec₂
  have hall : ∀ k < 4, a.toNat % 4 + k < 4 ∨ 3 - k ≤ (a + 3#32).toNat % 4 := fun k _ => by
    rw [BitVec.toNat_add, BitVec.toNat_ofNat]; omega
  simp only [← wordByte_eq_extractLsb']
  refine ⟨t₁, t₂, ?_, hup.join hdown (fun i hi j hj => add_ofNat_inj a hi hj) hall⟩
  generalize s.par.endian = e at hexec₁ hexec₂ ⊢
  cases e with
  | little => exact ⟨hexec₁, hexec₂⟩
  | big => exact ⟨hexec₁, hexec₂⟩

end Sys2Proof.Machine
end

section
/-! PROOFS for `47_load.md`. First what a load leaves behind and its exceptions (R66, R318), then the loads of bytes,
halfwords and words; then the partial loads (R315, R316), of which in either byte order one runs from its address up
to the end of the aligned word and the other down to its beginning; last the pair of them. -/

namespace Sys2Proof.Machine

/-! ### What a load leaves behind, and its exceptions (R66, R318, R379) -/

section
variable {s : State} {a : Word} {n : Nat} (rt : Reg) (v : Word)

/-- An aligned and backed load completes and writes its register only. -/
theorem State.loadReg_loads (ha : a.toNat % n = 0) (hb : ∀ i < n, backed s.par (a + BitVec.ofNat 32 i) = true) :
    ∃ t, s.loadReg a n rt v = .next t ∧ RegResult s t rt v := by
  have hok : accessError s.par .load a n = none := accessError_eq_none.2 ⟨ha, allBacked_iff.2 hb⟩
  rcases s.loadReg_cases a n rt v with ⟨-, hl⟩ | ⟨e, he, -⟩
  · exact ⟨_, hl, s.setReg_regResult rt v⟩
  · cases hok.symm.trans he

theorem State.loadReg_misaligned (ha : a.toNat % n ≠ 0) :
    ∃ t, s.loadReg a n rt v = .next t ∧ EntersException s t 4#4 (some a) := by
  rcases s.loadReg_cases a n rt v with ⟨he, -⟩ | ⟨e, he, hl⟩
  · exact absurd (accessError_eq_none.1 he).1 ha
  · cases (accessError_misaligned ha).symm.trans he
    exact ⟨_, hl, s.raise_enters (.adEL a)⟩

theorem State.loadReg_unbacked (ha : a.toNat % n = 0)
    (hk : ∃ k < n, backed s.par (a + BitVec.ofNat 32 k) = false) :
    ∃ t, s.loadReg a n rt v = .next t ∧ EntersException s t 7#4 none := by
  have hb : allBacked s.par a n = false := allBacked_eq_false_iff.2 hk
  rcases s.loadReg_cases a n rt v with ⟨he, -⟩ | ⟨e, he, hl⟩
  · cases (accessError_eq_none.1 he).2.symm.trans hb
  · cases (accessError_unbacked ha hb).symm.trans he
    exact ⟨_, hl, s.raise_enters .dbe⟩

end

/-! ### Bytes and halfwords (R310 to R313) -/

theorem zextByte_eq_append (b : Byte) : zextByte b = 0x000000#24 ++ b :=
  BitVec.setWidth_eq_append (by decide)

/-- Settles O30: one byte is always aligned, so only its backing is checked. -/
theorem byteLoads : Obligations.ByteLoads := by
  intro rt rs imm s a ha
  obtain rfl := ha.trans (s.effAddr_eq_ofInt rs imm).symm
  rw [← zextByte_eq_append]
  refine ⟨decode_of_encode_eq (i := .lb rt rs imm) rfl rfl, decode_of_encode_eq (i := .lbu rt rs imm) rfl rfl,
    fun hb => ?_, fun hb => ?_⟩
  · have hload := fun v => State.loadReg_loads (s := s) (a := s.effAddr rs imm) rt v (Nat.mod_one _) (by simpa using hb)
    exact ⟨hload _, hload _⟩
  · have hload := fun v => State.loadReg_unbacked (s := s) (a := s.effAddr rs imm) rt v (Nat.mod_one _)
      ⟨0, by decide, by simpa using hb⟩
    exact ⟨hload _, hload _⟩

/-- Settles O31: both are `loadReg` of `State.halfAt`, and the last bit of the address decides its alignment. -/
theorem halfLoads : Obligations.HalfLoads := by
  intro rt rs imm s a h ha hh
  obtain rfl := ha.trans (s.effAddr_eq_ofInt rs imm).symm
  have hhalf : h = s.halfAt (s.effAddr rs imm) := by
    rw [hh, State.halfAt]; cases s.par.endian <;> rfl
  subst hhalf
  rw [← zextHalf_eq_append]
  refine ⟨decode_of_encode_eq (i := .lh rt rs imm) rfl rfl, decode_of_encode_eq (i := .lhu rt rs imm) rfl rfl,
    fun heven hb₀ hb₁ => ?_, fun hodd => ?_, fun heven hb => ?_⟩
  · have heven := getLsbD_zero_eq_false_iff.1 heven
    have hall : ∀ k < 2, backed s.par (s.effAddr rs imm + BitVec.ofNat 32 k) = true := fun k hk => by
      interval_cases k
      · simpa using hb₀
      · exact hb₁
    have hload := fun v => State.loadReg_loads rt v heven hall
    exact ⟨hload _, hload _⟩
  · have hload := fun v => State.loadReg_misaligned (s := s) rt v
      (mt getLsbD_zero_eq_false_iff.2 (ne_false_of_eq_true hodd))
    exact ⟨hload _, hload _⟩
  · have heven := getLsbD_zero_eq_false_iff.1 heven
    have hhole : ∃ k < 2, backed s.par (s.effAddr rs imm + BitVec.ofNat 32 k) = false := by
      obtain hb | hb := hb
      · exact ⟨0, by decide, by simpa using hb⟩
      · exact ⟨1, by decide, hb⟩
    have hload := fun v => State.loadReg_unbacked rt v heven hhole
    exact ⟨hload _, hload _⟩

/-! ### Words (R314) -/

/-- Settles O32: `lw` is `loadReg` of `State.wordAt`, whose bytes are those in memory. -/
theorem wordLoad : Obligations.WordLoad := by
  intro rt rs imm s a ha
  obtain rfl := ha.trans (s.effAddr_eq_ofInt rs imm).symm
  refine ⟨decode_of_encode_eq (i := .lw rt rs imm) rfl rfl, fun hal hb => ?_,
    fun hal => State.loadReg_misaligned rt _ (mt extractLsb'_low_eq_zero_iff.2 hal),
    fun hal hb => State.loadReg_unbacked rt _ (extractLsb'_low_eq_zero_iff.1 hal) hb⟩
  obtain ⟨t, hexec, hres⟩ := State.loadReg_loads rt (s.wordAt _) (extractLsb'_low_eq_zero_iff.1 hal) hb
  exact ⟨t, _, hexec, hres, fun k hk => s.wordAt_byte _ hk⟩

/-! ### A partial load from its address up, and one from its address down (R315, R316) -/

theorem add_eq_alignedWord_add (a : Word) (k : Nat) :
    a + BitVec.ofNat 32 k = alignedWord a + BitVec.ofNat 32 (a.toNat % 4 + k) := by
  rw [BitVec.ofNat_add, ← BitVec.add_assoc, alignedWord_add]

theorem sub_eq_alignedWord_add {a : Word} {k : Nat} (hk : k ≤ a.toNat % 4) :
    a - BitVec.ofNat 32 k = alignedWord a + BitVec.ofNat 32 (a.toNat % 4 - k) := by
  rw [BitVec.sub_eq_iff_eq_add, BitVec.add_assoc, ← BitVec.ofNat_add, Nat.sub_add_cancel hk, alignedWord_add]

/-- The partial load that runs from its address to the end of the aligned word. -/
def loadUp (e : Endian) (rt rs : Reg) (imm : Half) : Instr :=
  match e with
  | .big => .lwl rt rs imm
  | .little => .lwr rt rs imm

/-- The partial load that runs from its address to the beginning of the aligned word. -/
def loadDown (e : Endian) (rt rs : Reg) (imm : Half) : Instr :=
  match e with
  | .big => .lwr rt rs imm
  | .little => .lwl rt rs imm

section
variable {s : State} {rt rs : Reg} {imm : Half} {a : Word} (ha : s.effAddr rs imm = a)
include ha

theorem exec_lwl : exec (.lwl rt rs imm) s = s.loadReg (alignedWord a) 4 rt
    (mergeLoadLeft (leftShift s.par.endian a) (s.wordAt (alignedWord a)) (s.reg rt)) := by
  subst ha; rfl

theorem exec_lwr : exec (.lwr rt rs imm) s = s.loadReg (alignedWord a) 4 rt
    (mergeLoadRight (rightShift s.par.endian a) (s.wordAt (alignedWord a)) (s.reg rt)) := by
  subst ha; rfl

/-- A load up merges as the store down to the mirrored address does, with register and memory exchanged. -/
theorem exec_loadUp : exec (loadUp s.par.endian rt rs imm) s = s.loadReg (alignedWord a) 4 rt
    (mergeDown s.par.endian (3 - a.toNat % 4) (s.wordAt (alignedWord a)) (s.reg rt)) := by
  have hb : 3 - (3 - a.toNat % 4) = a.toNat % 4 := by omega
  cases h : s.par.endian with
  | little => exact (exec_lwr ha).trans (by rw [h, mergeDown, hb]; rfl)
  | big => exact (exec_lwl ha).trans (by rw [h, mergeDown, hb]; rfl)

theorem exec_loadDown : exec (loadDown s.par.endian rt rs imm) s = s.loadReg (alignedWord a) 4 rt
    (mergeUp s.par.endian (3 - a.toNat % 4) (s.wordAt (alignedWord a)) (s.reg rt)) := by
  cases h : s.par.endian with
  | little => exact (exec_lwl ha).trans (by rw [h]; rfl)
  | big => exact (exec_lwr ha).trans (by rw [h]; rfl)

variable (hb : ∀ k < 4, backed s.par (alignedWord a + BitVec.ofNat 32 k) = true)
include hb

/-- Byte `k` of the register in memory order comes from `a + k`, as far as that stays in the aligned word. -/
theorem exec_loadUp_loads : ∃ t v, exec (loadUp s.par.endian rt rs imm) s = .next t ∧ RegResult s t rt v ∧
    ∀ k < 4, wordByte s.par.endian v k =
      if a.toNat % 4 + k < 4 then s.byteAt (a + BitVec.ofNat 32 k) else wordByte s.par.endian (s.reg rt) k := by
  obtain ⟨t, hload, hres⟩ := State.loadReg_loads rt
    (mergeDown s.par.endian (3 - a.toNat % 4) (s.wordAt (alignedWord a)) (s.reg rt)) (alignedWord_mod a) hb
  refine ⟨t, _, (exec_loadUp ha).trans hload, hres, fun k hk => ?_⟩
  have hplace : k + (3 - (3 - a.toNat % 4)) = a.toNat % 4 + k := by omega
  rw [mergeDown_wordByte _ _ _ (by omega) hk, hplace]
  refine ite_congr (propext (by omega)) (fun hin => ?_) fun _ => rfl
  rw [s.wordAt_wordByte _ hin, add_eq_alignedWord_add a]

/-- Byte `3 - k` of the register in memory order comes from `a - k`, as far as that stays in the aligned word. -/
theorem exec_loadDown_loads : ∃ t v, exec (loadDown s.par.endian rt rs imm) s = .next t ∧ RegResult s t rt v ∧
    ∀ k < 4, wordByte s.par.endian v (3 - k) =
      if k ≤ a.toNat % 4 then s.byteAt (a - BitVec.ofNat 32 k) else wordByte s.par.endian (s.reg rt) (3 - k) := by
  obtain ⟨t, hload, hres⟩ := State.loadReg_loads rt
    (mergeUp s.par.endian (3 - a.toNat % 4) (s.wordAt (alignedWord a)) (s.reg rt)) (alignedWord_mod a) hb
  refine ⟨t, _, (exec_loadDown ha).trans hload, hres, fun k hk => ?_⟩
  have hplace : 3 - k - (3 - a.toNat % 4) = a.toNat % 4 - k := by omega
  rw [mergeUp_wordByte _ _ _ (by omega) (by omega), hplace]
  refine ite_congr (propext (by omega)) (fun hin => ?_) fun _ => rfl
  rw [s.wordAt_wordByte _ (by omega), sub_eq_alignedWord_add hin]

end

/-! ### `lwl`, `lwr` (R315, R316) -/

/-- Settles O33: in either byte order one of the two is the load up and the other the load down. The byte places agree
by computation, except that in the big order byte `3 - k` has the place `8 * k` for `k < 4` only. -/
theorem partialLoads : Obligations.PartialLoads := by
  intro rt rs imm s a b ha hb
  obtain rfl := ha.trans (s.effAddr_eq_ofInt rs imm).symm
  subst hb
  rw [sub_offset_eq_alignedWord]
  refine ⟨decode_of_encode_eq (i := .lwl rt rs imm) rfl rfl, decode_of_encode_eq (i := .lwr rt rs imm) rfl rfl,
    fun hback => ?_, fun hhole => ?_⟩
  · have hup := exec_loadUp_loads (rt := rt) (rs := rs) (imm := imm) rfl hback
    have hdown := exec_loadDown_loads (rt := rt) (rs := rs) (imm := imm) rfl hback
    generalize s.par.endian = e at hup hdown ⊢
    cases e with
    | little => exact ⟨hdown, hup⟩
    | big =>
      obtain ⟨t, v, hexec, hres, hbytes⟩ := hdown
      refine ⟨hup, t, v, hexec, hres, fun k hk => ?_⟩
      have hbyte := hbytes k hk
      rw [wordByte, wordByte, Nat.sub_sub_self (Nat.le_of_lt_succ hk)] at hbyte
      exact hbyte
  · have hload := fun v => State.loadReg_unbacked rt v (alignedWord_mod _) hhole
    exact ⟨hload _, hload _⟩

/-! ### The pair (R319) -/

/-- Two writes of one register, one instruction after the other. -/
theorem RegResult.trans {s m t : State} {rd : Reg} {v w : Word} (h : RegResult s m rd v) (h' : RegResult m t rd w) :
    OnlyReg s t rd w ∧ t.pc = s.pc + 8#32 ∧ SameHiLo s t ∧ SameMemory s t ∧ SameSystem s t := by
  obtain ⟨hreg, hpc, ⟨hhi, hlo⟩, hmem, hbad, hstatus, hcause, hepc, hstep, hpar⟩ := h
  obtain ⟨hreg', hpc', ⟨hhi', hlo'⟩, hmem', hbad', hstatus', hcause', hepc', hstep', hpar'⟩ := h'
  refine ⟨hreg.trans hreg', ?_, ⟨hhi'.trans hhi, hlo'.trans hlo⟩, fun x => (hmem' x).trans (hmem x), hbad'.trans hbad,
    hstatus'.trans hstatus, hcause'.trans hcause, hepc'.trans hepc, hstep'.trans hstep, hpar'.trans hpar⟩
  rw [hpc', hpc, BitVec.add_assoc]; rfl

/-- The load down from `a + 3`, its bytes listed from `a` up. -/
theorem exec_loadDown_three_loads {s : State} (rt : Reg) {rs : Reg} {a : Word} (ha : s.reg rs = a)
    (hb : ∀ k < 4, backed s.par (alignedWord (a + 3#32) + BitVec.ofNat 32 k) = true) :
    ∃ t v, exec (loadDown s.par.endian rt rs 3#16) s = .next t ∧ RegResult s t rt v ∧
      ∀ k < 4, wordByte s.par.endian v k = if 3 - k ≤ (a + 3#32).toNat % 4 then s.byteAt (a + BitVec.ofNat 32 k)
        else wordByte s.par.endian (s.reg rt) k := by
  have heff : s.effAddr rs 3#16 = a + 3#32 := by rw [← ha]; exact s.effAddr_ofNat rs (by decide)
  obtain ⟨t, v, hexec, hres, hbytes⟩ := exec_loadDown_loads (rt := rt) heff hb
  refine ⟨t, v, hexec, hres, fun k hk => ?_⟩
  have hk3 : k ≤ 3 := Nat.le_of_lt_succ hk
  have haddr : a + 3#32 - BitVec.ofNat 32 (3 - k) = a + BitVec.ofNat 32 k := by
    rw [BitVec.sub_eq_iff_eq_add, BitVec.add_assoc, ← BitVec.ofNat_add, Nat.add_sub_cancel' hk3]
  have hbyte := hbytes (3 - k) (by omega)
  rwa [Nat.sub_sub_self hk3, haddr] at hbyte

/-- Settles O38: the load up from `A` and the load down from `A + 3` take byte `k` from `A + k`, or keep it, and between
them they take all four. -/
theorem unalignedLoadPair : Obligations.UnalignedLoadPair := by
  intro rt rs s a ha hne hrt hback₁ hback₂
  obtain ⟨t₁, v₁, hexec₁, hres₁, hup⟩ := exec_loadUp_loads (rt := rt) ((s.effAddr_zero rs).trans ha.symm) hback₁
  have ⟨⟨hv₁, _, hother⟩, _, _, hmem, _, _, _, _, _, hpar⟩ := hres₁
  obtain ⟨t₂, v₂, hexec₂, hres₂, hdown⟩ :=
    exec_loadDown_three_loads rt ((hother rs hne).trans ha.symm) (by rwa [hpar])
  rw [hpar, hv₁ hrt] at hdown
  rw [hpar] at hexec₂
  obtain ⟨⟨hv₂, -, hregs⟩, hframe⟩ := hres₁.trans hres₂
  have hbytes : ∀ k < 4, wordByte s.par.endian v₂ k = s.byteAt (a + BitVec.ofNat 32 k) := fun k hk => by
    have hall : a.toNat % 4 + k < 4 ∨ 3 - k ≤ (a + 3#32).toNat % 4 := by
      rw [BitVec.toNat_add, BitVec.toNat_ofNat]; omega
    rw [hdown k hk, hup k hk, hmem, ite_eq_left_iff]
    exact fun hkept => if_pos (hall.resolve_right hkept)
  simp only [← wordByte_eq_extractLsb']
  refine ⟨t₁, t₂, ?_, by rwa [hv₂ hrt], hregs, hframe⟩
  generalize s.par.endian = e at hexec₁ hexec₂ ⊢
  cases e with
  | little => exact ⟨hexec₁, hexec₂⟩
  | big => exact ⟨hexec₁, hexec₂⟩

end Sys2Proof.Machine
end

section
/-! PROOFS for `48_data_movement.md`. -/

namespace Sys2Proof.Machine

/-- Settles O41: a move from the pair writes one register; a move to one of the pair writes the other back as it was. -/
theorem hiLoMoves : Obligations.HiLoMoves := fun rd rs s =>
  ⟨decode_of_encode_eq (i := .mfhi rd) rfl rfl, decode_of_encode_eq (i := .mflo rd) rfl rfl,
    decode_of_encode_eq (i := .mthi rs) rfl rfl, decode_of_encode_eq (i := .mtlo rs) rfl rfl,
    ⟨_, rfl, s.setReg_regResult rd s.hi⟩, ⟨_, rfl, s.setReg_regResult rd s.lo⟩,
    ⟨_, rfl, s.setHiLo_hiLoResult (s.reg rs) s.lo 0⟩, _, rfl, s.setHiLo_hiLoResult s.hi (s.reg rs) 0⟩

end Sys2Proof.Machine
end

section
/-! PROOFS for `49_system.md`. First the words of `Status` and `Cause` field by field (R32 to R35), then the
instructions. -/

namespace Sys2Proof.Machine

/-! ### The words of `Status` and `Cause`, field by field (R32 to R35) -/

section
variable (st : Status) (c : Cause) (f : Word)

theorem Status.word_im : (st.word f).extractLsb' 8 8 = st.im := by
  simp only [Status.word, BitVec.extractLsb'_append_eq_ite]
  exact BitVec.extractLsb'_eq_self

theorem Status.word_getLsbD {k : Nat} (hk : k < 6) : (st.word f).getLsbD k = st.modes.getLsbD k := by
  rw [Status.word, BitVec.getLsbD_append, if_pos hk]

theorem Status.ofWord_getLsbD {k : Nat} (hk : k < 6) : (Status.ofWord f).modes.getLsbD k = f.getLsbD k := by
  rw [Status.ofWord_modes, BitVec.getLsbD_extractLsb', decide_eq_true hk, Nat.zero_add, Bool.true_and]

theorem Cause.word_bd : (c.word f).extractLsb' 31 1 = c.bd := by
  simp only [Cause.word, BitVec.extractLsb'_append_eq_ite]
  exact BitVec.extractLsb'_eq_self

theorem Cause.word_ce : (c.word f).extractLsb' 28 2 = c.ce := by
  simp only [Cause.word, BitVec.extractLsb'_append_eq_ite]
  exact BitVec.extractLsb'_eq_self

theorem Cause.word_ip : (c.word f).extractLsb' 8 8 = c.ip := by
  simp only [Cause.word, BitVec.extractLsb'_append_eq_ite]
  exact BitVec.extractLsb'_eq_self

theorem Cause.word_excCode : (c.word f).extractLsb' 2 4 = c.excCode := by
  simp only [Cause.word, BitVec.extractLsb'_append_eq_ite]
  exact BitVec.extractLsb'_eq_self

end

/-! ### `mfc0`, `mtc0` (R350, R351) -/

/-- A register number outside the list of R30 is undefined in the sense of R37. -/
theorem mfc0_mtc0_of_not_mem {n : BitVec 5} (hn : n ∉ [8#5, 12#5, 13#5, 14#5]) (rt : Reg) (s : State) :
    decode (0b010000#6 ++ 0b00000#5 ++ rt ++ n ++ 0#11) = .ok (.mfc0 rt (.other n)) ∧
    exec (.mfc0 rt (.other n)) s = .refused (.mfc0Undefined n) ∧
    decode (0b010000#6 ++ 0b00100#5 ++ rt ++ n ++ 0#11) = .ok (.mtc0 rt (.other n)) ∧
    exec (.mtc0 rt (.other n)) s = .refused (.mtc0Undefined n) := by
  simp only [List.mem_cons, List.not_mem_nil, or_false, not_or] at hn
  obtain ⟨h8, h12, h13, h14⟩ := hn
  exact undefinedCp0RegisterIsRefused rt n s h8 h12 h13 h14

/-- Settles O42: each defined register writes `rt` with its word, whose fields are the register's. -/
theorem moveFromCoprocessor0 : Obligations.MoveFromCoprocessor0 := by
  intro rt s
  refine ⟨decode_of_encode_eq (i := .mfc0 rt .badVAddr) rfl rfl, decode_of_encode_eq (i := .mfc0 rt .status) rfl rfl,
    decode_of_encode_eq (i := .mfc0 rt .cause) rfl rfl, decode_of_encode_eq (i := .mfc0 rt .epc) rfl rfl,
    ⟨_, rfl, s.setReg_regResult rt s.badVAddr⟩, ?status, ?cause, ⟨_, rfl, s.setReg_regResult rt s.epc⟩,
    fun n hn => ?other⟩
  case status =>
    have hmode : ∀ k < 6, (s.status.word (s.free 0)).getLsbD k = s.status.modes.getLsbD k :=
      fun k => s.status.word_getLsbD (s.free 0)
    exact ⟨_, s.status.word (s.free 0), rfl, s.setReg_regResult rt _, s.status.word_im _, hmode 5 (by decide),
      hmode 4 (by decide), hmode 3 (by decide), hmode 2 (by decide), hmode 1 (by decide), hmode 0 (by decide)⟩
  case cause =>
    exact ⟨_, s.cause.word (s.free 0), rfl, s.setReg_regResult rt _, s.cause.word_bd _, s.cause.word_ce _,
      s.cause.word_ip _, s.cause.word_excCode _⟩
  case other =>
    obtain ⟨hdecode, hexec, -, -⟩ := mfc0_mtc0_of_not_mem hn rt s
    exact ⟨hdecode, hexec⟩

/-- What changes only `Status`, `Cause` and `EPC`, and then completes. -/
theorem SystemResult.of_cp0 {s m : State}
    (hm : m = { s with status := m.status, cause := m.cause, epc := m.epc }) : SystemResult s m.advance := by
  rw [hm]
  exact ⟨rfl, fun _ => rfl, ⟨rfl, rfl⟩, fun _ => rfl, rfl, rfl⟩

/-- Settles O43: each defined register but `BadVAddr` receives its writable fields from `rt`. -/
theorem moveToCoprocessor0 : Obligations.MoveToCoprocessor0 := by
  rintro rt s v rfl
  refine ⟨decode_of_encode_eq (i := .mtc0 rt .badVAddr) rfl rfl, decode_of_encode_eq (i := .mtc0 rt .status) rfl rfl,
    decode_of_encode_eq (i := .mtc0 rt .cause) rfl rfl, decode_of_encode_eq (i := .mtc0 rt .epc) rfl rfl,
    ⟨_, rfl, .of_cp0 rfl, rfl, rfl, rfl, rfl⟩, ?status, ⟨_, rfl, .of_cp0 rfl, rfl, rfl, rfl, rfl⟩,
    ⟨_, rfl, .of_cp0 rfl, rfl, rfl, rfl, rfl⟩, fun n hn => ?other⟩
  case status =>
    have hmode : ∀ k < 6, (Status.ofWord (s.reg rt)).modes.getLsbD k = (s.reg rt).getLsbD k :=
      fun k => Status.ofWord_getLsbD (s.reg rt)
    exact ⟨_, rfl, .of_cp0 rfl, rfl, rfl, rfl, Status.ofWord_im _, hmode 5 (by decide), hmode 4 (by decide),
      hmode 3 (by decide), hmode 2 (by decide), hmode 1 (by decide), hmode 0 (by decide)⟩
  case other =>
    obtain ⟨-, -, hdecode, hexec⟩ := mfc0_mtc0_of_not_mem hn rt s
    exact ⟨hdecode, hexec⟩

/-! ### `rfe`, `syscall` (R352, R353) -/

/-- Settles O44: `rfe` changes `Status` only, by popping its mode stack. -/
theorem returnFromException : Obligations.ReturnFromException := by
  intro s
  obtain ⟨hkuo, hieo, hkup, hiep, hkuc, hiec⟩ := s.status.pop_bits
  exact ⟨decode_of_encode_eq (i := .rfe) rfl rfl, _, rfl, .of_cp0 rfl, rfl, rfl, rfl, s.status.pop_im, hkuc, hiec, hkup,
    hiep, hkuo, hieo⟩

/-- Settles O11: whatever its `code` field, `syscall` is the exception entry of `Sys`. -/
theorem syscallEntersTheHandler : Obligations.SyscallEntersTheHandler := fun code s =>
  ⟨decode_of_encode_eq (i := .syscall code) rfl rfl, _, rfl, s.raise_enters .sys⟩

end Sys2Proof.Machine
end

section
/-! PROOFS for `60_exceptions.md`. The exception entry and the interrupt that takes it (R377, R380), the way back from
the handler (R383), and what does not depend on the `KU` bits (R395). -/

namespace Sys2Proof.Machine

/-! ### Exception entry, and interrupts (R370, R377, R380) -/

/-- Settles O12: `State.raise` is an exception entry with the code and the address of its cause. -/
theorem exceptionEntryWrites : Obligations.ExceptionEntryWrites := fun s a =>
  ⟨s.raise_enters .int, s.raise_enters (.adEL a), s.raise_enters (.adES a), s.raise_enters .ibe, s.raise_enters .dbe,
    s.raise_enters .sys, s.raise_enters .ri, s.raise_enters .ov⟩

/-- An interrupt is what the step takes, whatever the fetch would give. -/
theorem step_of_interrupt {s : State} (hint : interruptPending s.status s.poll.cause = true) :
    step s = .next (s.poll.raise .int) := by
  have hsel : s.poll.select = .error .int := if_pos hint
  rcases step_cases s with ⟨e, hs, hstep⟩ | ⟨i, hs, -⟩ <;> cases hsel.symm.trans hs
  exact hstep

/-- Settles O6: the two premises are R377's condition on the sampled state, and the entry keeps `IP`. -/
theorem interruptTakenBeforeFetch : Obligations.InterruptTakenBeforeFetch := by
  intro s hie hip
  have hint : interruptPending s.status s.poll.cause = true := by
    rw [interruptPending, hie, Bool.true_and]
    exact bne_iff_ne.2 hip
  exact ⟨_, step_of_interrupt hint, s.poll.raise_enters .int, s.poll.raise_ip .int⟩

/-! ### The way back from the handler (R383) -/

/-- What an exception entry and the `rfe` after it leave of the mode stack: the current and the previous pair are as
before, and the old pair is lost (R32). -/
theorem Status.push_pop_bits (st : Status) :
    st.push.pop.kuc = st.kuc ∧ st.push.pop.iec = st.iec ∧ st.push.pop.kup = st.kup ∧ st.push.pop.iep = st.iep ∧
      st.push.pop.kuo = st.kup ∧ st.push.pop.ieo = st.iep := by
  obtain ⟨hkuo, hieo, hkup, hiep, -, -⟩ := st.push_bits
  obtain ⟨hkuo', hieo', hkup', hiep', hkuc', hiec'⟩ := st.push.pop_bits
  exact ⟨hkuc'.trans hkup, hiec'.trans hiep, hkup'.trans hkuo, hiep'.trans hieo, hkuo'.trans hkuo, hieo'.trans hieo⟩

/-- The state before the `jr` of the handler's return: `k` holds the address of the `syscall` and the mode stack is
popped. -/
def beforeHandlerJump (s : State) (k : Reg) : State :=
  ((s.raise .sys).setReg k s.pc).advance.returnFromException.advance

theorem beforeHandlerJump_onlyReg (s : State) (k : Reg) : OnlyReg s (beforeHandlerJump s k) k s.pc :=
  setReg_onlyReg (s.raise_reg .sys) k s.pc

/-- Settles O45: `EPC` carries `pc` through the entry to `k`, and the mode stack is pushed and popped once. -/
theorem handlerReturnRestoresTheContext : Obligations.HandlerReturnRestoresTheContext := by
  intro code k s hk
  have honly := beforeHandlerJump_onlyReg s k
  have ⟨hpc, _, _⟩ := honly
  obtain ⟨hkuc, hiec, hkup, hiep, hkuo, hieo⟩ := s.status.push_pop_bits
  exact ⟨s.raise .sys, ((s.raise .sys).setReg k s.pc).advance, beforeHandlerJump s k, _, rfl, rfl, rfl, rfl, hpc hk,
    honly, ⟨rfl, rfl⟩, fun _ => rfl, rfl, hkuc, hiec, hkup, hiep, hkuo, hieo⟩

/-! ### The `KU` bits (R395) -/

/-- Two values of `Status` that differ at most in the three bits `KU`. -/
structure SameButKu (st st' : Status) : Prop where
  im : st.im = st'.im
  iec : st.iec = st'.iec
  iep : st.iep = st'.iep
  ieo : st.ieo = st'.ieo

theorem SameButKu.refl (st : Status) : SameButKu st st := ⟨rfl, rfl, rfl, rfl⟩

/-- What a step that selects `sel` answers from `s` and from `s.setStatus st`, when the two differ at most in the `KU`
bits: outcomes that differ at most in these bits, and in the register that an `mfc0` of `Status` writes. -/
inductive KuAlike (sel : Except Exc Instr) (s : State) (st : Status) : Result → Result → Prop
  | carries {t : State} {st' : Status} (h : SameButKu t.status st') :
      KuAlike sel s st (.next t) (.next (t.setStatus st'))
  | readsStatus {rt : Reg} (hsel : sel = .ok (.mfc0 rt .status)) (h : SameButKu s.status st) (v v' : Word) :
      KuAlike sel s st (.next ((s.setReg rt v).drew 1).advance) (.next (((s.setStatus st).setReg rt v').drew 1).advance)
  | refuses (x : Refusal) : KuAlike sel s st (.refused x) (.refused x)

/-- Both take the same branch. -/
theorem KuAlike.ite {sel : Except Exc Instr} {s : State} {st : Status} {o₁ o₂ u₁ u₂ : Result} {c : Prop} [Decidable c]
    (ho : KuAlike sel s st o₁ o₂) (hu : KuAlike sel s st u₁ u₂) :
    KuAlike sel s st (if c then o₁ else u₁) (if c then o₂ else u₂) := by
  split
  · exact ho
  · exact hu

section
variable {st st' : Status} (h : SameButKu st st')
include h

theorem SameButKu.push : SameButKu st.push st'.push := by
  obtain ⟨-, hieo, -, hiep, -, hiec⟩ := st.push_bits
  obtain ⟨-, hieo', -, hiep', -, hiec'⟩ := st'.push_bits
  exact ⟨h.im, hiec.trans hiec'.symm, hiep.trans (h.iec.trans hiep'.symm), hieo.trans (h.iep.trans hieo'.symm)⟩

theorem SameButKu.pop : SameButKu st.pop st'.pop := by
  obtain ⟨-, hieo, -, hiep, -, hiec⟩ := st.pop_bits
  obtain ⟨-, hieo', -, hiep', -, hiec'⟩ := st'.pop_bits
  exact ⟨h.im, hiec.trans (h.iep.trans hiec'.symm), hiep.trans (h.ieo.trans hiep'.symm),
    hieo.trans (h.ieo.trans hieo'.symm)⟩

/-- The interrupt condition reads none of the `KU` bits (R377). -/
theorem SameButKu.interruptPending_eq (c : Cause) : interruptPending st c = interruptPending st' c := by
  rw [interruptPending, interruptPending, h.iec, h.im]

end

section
variable {sel : Except Exc Instr} {s : State} {st : Status} (h : SameButKu s.status st)
include h

theorem SameButKu.select_eq : (s.setStatus st).select = s.select := by
  have hint := h.interruptPending_eq s.cause
  unfold State.select
  rw [hint]; rfl

theorem SameButKu.raise_alike (e : Exc) : KuAlike sel s st (.next (s.raise e)) (.next ((s.setStatus st).raise e)) :=
  .carries h.push

theorem SameButKu.writeSigned_alike (rd : Reg) (r : Int) :
    KuAlike sel s st (s.writeSigned rd r) ((s.setStatus st).writeSigned rd r) :=
  .ite (.carries h) (h.raise_alike .ov)

theorem SameButKu.loadReg_alike (a : Word) (n : Nat) (rt : Reg) (v : Word) :
    KuAlike sel s st (s.loadReg a n rt v) ((s.setStatus st).loadReg a n rt v) := by
  unfold State.loadReg
  rw [State.setStatus_par]
  split
  · exact h.raise_alike _
  · exact .carries h

theorem SameButKu.storeMem_alike (a : Word) (n : Nat) {s' : State} (hs' : s'.status = s.status) :
    KuAlike sel s st (s.storeMem a n s') ((s.setStatus st).storeMem a n (s'.setStatus st)) := by
  unfold State.storeMem
  rw [State.setStatus_par]
  split
  · exact h.raise_alike _
  · exact .carries (hs' ▸ h)

theorem SameButKu.execDiv_alike (rs rt : Reg) :
    KuAlike sel s st (execDiv rs rt s) (execDiv rs rt (s.setStatus st)) := by
  refine .ite (.carries h) (.ite (.carries h) (.ite (.carries h) ?_))
  rw [State.setStatus_par]
  split <;> exact .carries h

theorem SameButKu.execDivu_alike (rs rt : Reg) :
    KuAlike sel s st (execDivu rs rt s) (execDivu rs rt (s.setStatus st)) :=
  .ite (.carries h) (.carries h)

theorem SameButKu.execMfc0_alike {rt : Reg} {c : Cp0Reg} (hsel : sel = .ok (.mfc0 rt c)) :
    KuAlike sel s st (execMfc0 rt c s) (execMfc0 rt c (s.setStatus st)) := by
  cases c with
  | badVAddr => exact .carries h
  | status => exact .readsStatus hsel h _ _
  | cause => exact .carries h
  | epc => exact .carries h
  | other n => exact .refuses _

theorem SameButKu.execMtc0_alike (rt : Reg) (c : Cp0Reg) :
    KuAlike sel s st (execMtc0 rt c s) (execMtc0 rt c (s.setStatus st)) := by
  cases c with
  | badVAddr => exact .carries h
  | status => exact .carries (.refl _)
  | cause => exact .carries h
  | epc => exact .carries h
  | other n => exact .refuses _

end

/-- An instruction does the same whatever the `KU` bits are, but for an `mfc0` of `Status`, which reads them. -/
theorem exec_kuAlike (i : Instr) {s : State} {st : Status} (h : SameButKu s.status st) :
    KuAlike (.ok i) s st (exec i s) (exec i (s.setStatus st)) := by
  cases i with
  | add | addi | sub => exact h.writeSigned_alike _ _
  | lb | lbu | lh | lhu | lw | lwl | lwr => exact h.loadReg_alike _ _ _ _
  | sb | sh | sw | swl | swr => exact h.storeMem_alike _ _ rfl
  | div => exact h.execDiv_alike _ _
  | divu => exact h.execDivu_alike _ _
  | syscall => exact h.raise_alike .sys
  | mfc0 => exact h.execMfc0_alike rfl
  | mtc0 => exact h.execMtc0_alike _ _
  | rfe => exact .carries h.pop
  | _ => exact .carries h

/-- Both steps take the same exception before execution, or execute the same instruction. -/
theorem step_kuAlike {s : State} {st : Status} (h : SameButKu s.status st) :
    KuAlike s.poll.select s.poll st (step s) (step (s.setStatus st)) := by
  have hpoll : SameButKu s.poll.status st := h
  have hselect : (s.setStatus st).poll.select = s.poll.select := hpoll.select_eq
  unfold step
  rw [hselect]
  cases s.poll.select with
  | error e => exact hpoll.raise_alike e
  | ok i => exact exec_kuAlike i hpoll

/-- `KuAlike` outcomes in the terms of R395. -/
theorem KuAlike.differ_in_ku {sel : Except Exc Instr} {s : State} {st : Status} {o₁ o₂ : Result}
    (hk : KuAlike sel s st o₁ o₂) :
    (∃ t₁ t₂, o₁ = .next t₁ ∧ o₂ = .next t₂ ∧ t₂ = { t₁ with status := t₂.status, gpr := t₂.gpr } ∧
      t₁.status.im = t₂.status.im ∧ t₁.status.iec = t₂.status.iec ∧ t₁.status.iep = t₂.status.iep ∧
      t₁.status.ieo = t₂.status.ieo ∧ ∀ r : Reg, t₁.reg r = t₂.reg r ∨ sel = .ok (.mfc0 r .status)) ∨
    (∃ x, o₁ = .refused x ∧ o₂ = .refused x) := by
  cases hk with
  | @carries t st' h =>
    exact .inl ⟨t, t.setStatus st', rfl, rfl, rfl, h.im, h.iec, h.iep, h.ieo, fun _ => .inl rfl⟩
  | @readsStatus rt hsel h v v' =>
    refine .inl ⟨_, _, rfl, rfl, rfl, h.im, h.iec, h.iep, h.ieo, fun r => ?_⟩
    by_cases hr : r = rt
    · exact .inr (hr ▸ hsel)
    · exact .inl ((s.setReg_reg_other v hr).trans ((s.setStatus st).setReg_reg_other v' hr).symm)
  | refuses x => exact .inr ⟨x, rfl, rfl⟩

/-- Settles O54: the second state is the first with another `Status`. -/
theorem modeBitsHaveNoEffect : Obligations.ModeBitsHaveNoEffect := by
  intro s₁ s₂ hs him hiec hiep hieo
  obtain ⟨st, rfl⟩ : ∃ st, s₂ = s₁.setStatus st := ⟨s₂.status, hs⟩
  exact (step_kuAlike ⟨him, hiec, hiep, hieo⟩).differ_in_ku

end Sys2Proof.Machine
end
